-- ==== Sys2Proof/Word.lean ====
section
/-! DEFINITION. The widths the spec names (00_scope.md R9, R10): words, bytes, 16-bit register fields, the 64-bit timebase count. -/

namespace Sys2Proof

/-- A command word, a drive mask, a register value as the bus carries it (R9, R10, R23). -/
abbrev Word := BitVec 32

/-- A colour channel, a byte on the wire, the brightness scale (R9). -/
abbrev Byte := BitVec 8

/-- A timing register, a correction, CAL_DIV, STRIP_LEN (R10). -/
abbrev Half := BitVec 16

/-- A timebase count or a number of ticks (R9). -/
abbrev Ticks := BitVec 64

end Sys2Proof
end

