-- ==== Sys2Proof/Syntax.lean ====
section
/-! DEFINITION. The twelve commands (30_encoding.md R82) and the assembler's command lines (R86, R87). -/

namespace Sys2Proof

/-- A command of the block: one constructor per row of spec/opcode_table.json. Each operand has exactly the width of R81, so
every value of this type is a command some word encodes. -/
inductive Instr where
  /-- 43_control_commands.md R170 -/
  | nop
  /-- 43_control_commands.md R171 -/
  | maskinit (pin : BitVec 5)
  /-- 41_pulse_commands.md R130 -/
  | sendBit (bit : Bool)
  /-- 41_pulse_commands.md R131 -/
  | sendByte (byte : Byte)
  /-- 41_pulse_commands.md R132 -/
  | sendPixel (r g b : Byte)
  /-- 41_pulse_commands.md R134 -/
  | setScale (scale : Byte)
  /-- 41_pulse_commands.md R136 -/
  | sendPixelScaled (r g b : Byte)
  /-- 42_frame_commands.md R150 -/
  | latch
  /-- 42_frame_commands.md R152 -/
  | fill (shown : Bool) (r g b : Byte)
  /-- 42_frame_commands.md R153 -/
  | fillScaled (r g b : Byte)
  /-- 43_control_commands.md R174 -/
  | delayTicks (t : BitVec 28)
  /-- 43_control_commands.md R176 -/
  | waitIters (n : BitVec 28)
deriving DecidableEq, Repr

/-- A line of command assembly: the twelve forms of R86 with their operands in source order (r, g, b), each a number as
written, and the three pseudo-instructions of R87. -/
inductive AsmLine where
  | nop
  | maskinit (pin : Nat)
  | sendBit (b : Nat)
  | sendByte (x : Nat)
  | sendPixel (r g b : Nat)
  | setScale (s : Nat)
  | sendPixelScaled (r g b : Nat)
  | latch
  | fill (r g b shown : Nat)
  | fillScaled (r g b : Nat)
  | delayTicks (t : Nat)
  | waitIters (n : Nat)
  /-- `clear show` -/
  | clear (shown : Nat)
  /-- `send_pixel_scaled r, g, b, s` -/
  | sendPixelScaledBy (r g b s : Nat)
  /-- `fill_scaled r, g, b, s` -/
  | fillScaledBy (r g b s : Nat)
deriving DecidableEq, Repr

end Sys2Proof
end

