-- ==== Sys2Proof/WellFormed.lean ====
section
/-! DEFINITION. The operand ranges of 30_encoding.md R81, which the assembler checks (R86: "An assembler refuses an operand
outside its range in rule R81"). A value of `Instr` is well formed by its type: its fields have the widths of R81. -/

namespace Sys2Proof

/-- A one-bit operand: BIT, SHOW (R81). -/
def fitsBit (n : Nat) : Bool := n < 2

/-- A PIN operand, 0..31 (R81). -/
def fitsPin (n : Nat) : Bool := n < 32

/-- An 8-bit operand: BYTE, R, G, B, S (R81). -/
def fitsByte (n : Nat) : Bool := n < 256

/-- A 28-bit operand: T, N (R81). -/
def fitsCount (n : Nat) : Bool := n < 2 ^ 28

/-- Three colour channels (R81). -/
def fitsPixel (r g b : Nat) : Bool := fitsByte r && fitsByte g && fitsByte b

/-- Every operand of the line is in its range of R81. -/
def AsmLine.wellFormed : AsmLine → Bool
  | .nop => true
  | .maskinit pin => fitsPin pin
  | .sendBit b => fitsBit b
  | .sendByte x => fitsByte x
  | .sendPixel r g b => fitsPixel r g b
  | .setScale s => fitsByte s
  | .sendPixelScaled r g b => fitsPixel r g b
  | .latch => true
  | .fill r g b shown => fitsPixel r g b && fitsBit shown
  | .fillScaled r g b => fitsPixel r g b
  | .delayTicks t => fitsCount t
  | .waitIters n => fitsCount n
  | .clear shown => fitsBit shown
  | .sendPixelScaledBy r g b s => fitsPixel r g b && fitsByte s
  | .fillScaledBy r g b s => fitsPixel r g b && fitsByte s

end Sys2Proof
end

