-- ==== Sys2Proof/Decode.lean ====
section
/-! DEFINITION. The command decoder of 30_encoding.md R83, total on every word, and the encoder written from R82 and R86. -/

namespace Sys2Proof

/-- Why a word is illegal: R84 names exactly these two classes. -/
inductive Illegal where
  /-- OP is 0xC..0xF. -/
  | reservedOp
  /-- OP is 0x0..0x9 and a bit the OP does not use is 1. -/
  | reservedBit
deriving DecidableEq, Repr

/-- What a word decodes to: a command or, by name, `Illegal` (R83). -/
inductive Decoded where
  | legal (i : Instr)
  | illegal (why : Illegal)
deriving DecidableEq, Repr

/-- The command `i` if the reserved bits are all 0, else an illegal word (R83, R84). -/
def Decoded.ifZero {n : Nat} (reserved : BitVec n) (i : Instr) : Decoded :=
  if reserved = 0#n then .legal i else .illegal .reservedBit

/-- The field R of a word, bits 23:16 (R81). -/
def fieldR (w : Word) : Byte := w.extractLsb' 16 8

/-- The field G of a word, bits 15:8 (R81). -/
def fieldG (w : Word) : Byte := w.extractLsb' 8 8

/-- The field B of a word, bits 7:0 (R81). -/
def fieldB (w : Word) : Byte := w.extractLsb' 0 8

/-- `decode(w)` (R83). -/
def decode (w : Word) : Decoded :=
  match (w.extractLsb' 28 4).toNat with
  | 0x0 => .ifZero (w.extractLsb' 0 28) .nop
  | 0x1 => .ifZero (w.extractLsb' 5 23) (.maskinit (w.extractLsb' 0 5))
  | 0x2 => .ifZero (w.extractLsb' 1 27) (.sendBit (w.getLsbD 0))
  | 0x3 => .ifZero (w.extractLsb' 8 20) (.sendByte (w.extractLsb' 0 8))
  | 0x4 => .ifZero (w.extractLsb' 24 4) (.sendPixel (fieldR w) (fieldG w) (fieldB w))
  | 0x5 => .ifZero (w.extractLsb' 8 20) (.setScale (w.extractLsb' 0 8))
  | 0x6 => .ifZero (w.extractLsb' 24 4) (.sendPixelScaled (fieldR w) (fieldG w) (fieldB w))
  | 0x7 => .ifZero (w.extractLsb' 0 28) .latch
  | 0x8 => .ifZero (w.extractLsb' 25 3) (.fill (w.getLsbD 24) (fieldR w) (fieldG w) (fieldB w))
  | 0x9 => .ifZero (w.extractLsb' 24 4) (.fillScaled (fieldR w) (fieldG w) (fieldB w))
  | 0xA => .legal (.delayTicks (w.extractLsb' 0 28))
  | 0xB => .legal (.waitIters (w.extractLsb' 0 28))
  | _ => .illegal .reservedOp

/-- The word that encodes a command: the fields of its row of R82 from bit 31 down, reserved bits 0. -/
def encode : Instr → Word
  | .nop => 0x0#4 ++ 0#28
  | .maskinit pin => 0x1#4 ++ 0#23 ++ pin
  | .sendBit bit => 0x2#4 ++ 0#27 ++ BitVec.ofBool bit
  | .sendByte byte => 0x3#4 ++ 0#20 ++ byte
  | .sendPixel r g b => 0x4#4 ++ 0#4 ++ r ++ g ++ b
  | .setScale scale => 0x5#4 ++ 0#20 ++ scale
  | .sendPixelScaled r g b => 0x6#4 ++ 0#4 ++ r ++ g ++ b
  | .latch => 0x7#4 ++ 0#28
  | .fill shown r g b => 0x8#4 ++ 0#3 ++ BitVec.ofBool shown ++ r ++ g ++ b
  | .fillScaled r g b => 0x9#4 ++ 0#4 ++ r ++ g ++ b
  | .delayTicks t => 0xA#4 ++ t
  | .waitIters n => 0xB#4 ++ n

/-- A row of the opcode map: a word encodes the row's command when `(w & mask) = pattern` (R82). -/
structure OpcodeRow where
  pattern : Word
  mask : Word
deriving DecidableEq, Repr

/-- `(w & mask) = match` (R82). -/
def OpcodeRow.covers (row : OpcodeRow) (w : Word) : Bool := w &&& row.mask == row.pattern

/-- The columns `match` and `mask` of the opcode map, row by row (R82). -/
def opcodeMap : List OpcodeRow :=
  [⟨0x00000000, 0xFFFFFFFF⟩, ⟨0x10000000, 0xFFFFFFE0⟩, ⟨0x20000000, 0xFFFFFFFE⟩, ⟨0x30000000, 0xFFFFFF00⟩,
   ⟨0x40000000, 0xFF000000⟩, ⟨0x50000000, 0xFFFFFF00⟩, ⟨0x60000000, 0xFF000000⟩, ⟨0x70000000, 0xFFFFFFFF⟩,
   ⟨0x80000000, 0xFE000000⟩, ⟨0x90000000, 0xFF000000⟩, ⟨0xA0000000, 0xF0000000⟩, ⟨0xB0000000, 0xF0000000⟩]

/-- A command is one 32-bit word (R80); bits of `w` at `nbits` and above are 0. -/
def tableWord (nbits w : Nat) : Word := BitVec.ofNat 32 (w % 2 ^ nbits)

/-- The command the decoder reads from a row's word, bit 0 its least significant bit (R80, R83). -/
def decodeTableWord (nbits w : Nat) : Option Instr :=
  match decode (tableWord nbits w) with
  | .legal i => some i
  | .illegal _ => none

/-- The commands a line of assembly stands for, its operands taken modulo their fields (R86, R87). -/
def AsmLine.commands : AsmLine → List Instr
  | .nop => [.nop]
  | .maskinit pin => [.maskinit (BitVec.ofNat 5 pin)]
  | .sendBit b => [.sendBit (b == 1)]
  | .sendByte x => [.sendByte (BitVec.ofNat 8 x)]
  | .sendPixel r g b => [.sendPixel (BitVec.ofNat 8 r) (BitVec.ofNat 8 g) (BitVec.ofNat 8 b)]
  | .setScale s => [.setScale (BitVec.ofNat 8 s)]
  | .sendPixelScaled r g b => [.sendPixelScaled (BitVec.ofNat 8 r) (BitVec.ofNat 8 g) (BitVec.ofNat 8 b)]
  | .latch => [.latch]
  | .fill r g b shown => [.fill (shown == 1) (BitVec.ofNat 8 r) (BitVec.ofNat 8 g) (BitVec.ofNat 8 b)]
  | .fillScaled r g b => [.fillScaled (BitVec.ofNat 8 r) (BitVec.ofNat 8 g) (BitVec.ofNat 8 b)]
  | .delayTicks t => [.delayTicks (BitVec.ofNat 28 t)]
  | .waitIters n => [.waitIters (BitVec.ofNat 28 n)]
  | .clear shown => [.fill (shown == 1) 0 0 0]
  | .sendPixelScaledBy r g b s =>
    [.setScale (BitVec.ofNat 8 s), .sendPixelScaled (BitVec.ofNat 8 r) (BitVec.ofNat 8 g) (BitVec.ofNat 8 b)]
  | .fillScaledBy r g b s =>
    [.setScale (BitVec.ofNat 8 s), .fillScaled (BitVec.ofNat 8 r) (BitVec.ofNat 8 g) (BitVec.ofNat 8 b)]

/-- The words a line assembles to; an operand out of range is refused (R86, R87). -/
def assemble (line : AsmLine) : Option (List Word) :=
  if line.wellFormed then some (line.commands.map encode) else none

/-- A decimal digit's value. -/
def decimalDigit (c : Char) : Option Nat :=
  if '0' ≤ c ∧ c ≤ '9' then some (c.toNat - '0'.toNat) else none

/-- A hexadecimal digit's value. DESIGN CHOICE, log entry 16: both cases of a letter are read. -/
def hexDigit (c : Char) : Option Nat :=
  if 'a' ≤ c ∧ c ≤ 'f' then some (c.toNat - 'a'.toNat + 10)
  else if 'A' ≤ c ∧ c ≤ 'F' then some (c.toNat - 'A'.toNat + 10)
  else decimalDigit c

/-- The number whose digits follow `acc`, most significant first. -/
def readDigits (base : Nat) (digit : Char → Option Nat) : List Char → Nat → Option Nat
  | [], acc => some acc
  | c :: cs, acc =>
    match digit c with
    | some d => readDigits base digit cs (acc * base + d)
    | none => none

/-- A number of R86: decimal, or hexadecimal after `0x`. -/
def readNumber : List Char → Option Nat
  | '0' :: 'x' :: c :: cs => readDigits 16 hexDigit (c :: cs) 0
  | c :: cs => readDigits 10 decimalDigit (c :: cs) 0
  | [] => none

/-- The operands of a line, split at commas (R86). -/
def splitOperands : List Char → List Char → List (List Char)
  | [], acc => [acc.reverse]
  | ',' :: cs, acc => acc.reverse :: splitOperands cs []
  | c :: cs, acc => splitOperands cs (c :: acc)

/-- Text without the blanks before and after it. DESIGN CHOICE, log entry 16: R86 writes a blank after the mnemonic and after a
comma, and none inside a number. -/
def trimBlanks (cs : List Char) : List Char :=
  ((cs.dropWhile (· == ' ')).reverse.dropWhile (· == ' ')).reverse

/-- Every operand of a line as a number; a line of blanks has none. -/
def readOperands (cs : List Char) : Option (List Nat) :=
  if cs.all (· == ' ') then some [] else (splitOperands cs []).mapM (fun text => readNumber (trimBlanks text))

/-- The line a mnemonic and its operands make, by the table of R86 and the pseudo-instructions of R87. -/
def asmLineOf (mnemonic : List Char) : List Nat → Option AsmLine
  | [] =>
    if mnemonic = "nop".toList then some .nop
    else if mnemonic = "latch".toList then some .latch
    else none
  | [x] =>
    if mnemonic = "maskinit".toList then some (.maskinit x)
    else if mnemonic = "send_bit".toList then some (.sendBit x)
    else if mnemonic = "send_byte".toList then some (.sendByte x)
    else if mnemonic = "set_scale".toList then some (.setScale x)
    else if mnemonic = "delay_ticks".toList then some (.delayTicks x)
    else if mnemonic = "wait_iters".toList then some (.waitIters x)
    else if mnemonic = "clear".toList then some (.clear x)
    else none
  | [r, g, b] =>
    if mnemonic = "send_pixel".toList then some (.sendPixel r g b)
    else if mnemonic = "send_pixel_scaled".toList then some (.sendPixelScaled r g b)
    else if mnemonic = "fill_scaled".toList then some (.fillScaled r g b)
    else none
  | [r, g, b, x] =>
    if mnemonic = "fill".toList then some (.fill r g b x)
    else if mnemonic = "send_pixel_scaled".toList then some (.sendPixelScaledBy r g b x)
    else if mnemonic = "fill_scaled".toList then some (.fillScaledBy r g b x)
    else none
  | _ => none

/-- A line of text read as a command line: a mnemonic, then its operands (R86). -/
def readAsmLine (text : List Char) : Option AsmLine :=
  let body := text.dropWhile (· == ' ')
  match readOperands (body.dropWhile (· != ' ')) with
  | some operands => asmLineOf (body.takeWhile (· != ' ')) operands
  | none => none

end Sys2Proof
end

