-- ==== Sys2Proof/Machine/Moves.lean ====
section
/-! DEFINITION. What can happen next to the block: the moves of its agents (00_scope.md R8) and of the platform around it.
They are plain data, so that an interleaving (20_memory.md R68) is a list of them. -/

namespace Sys2Proof.Machine

/-- One bus access of the host: a byte address, a width in bytes, and for a write the value (20_memory.md R61, R62).
DESIGN CHOICE, log entry 8: the address is a natural number, since the spec gives the bus no address width. -/
inductive Access where
  /-- `MemRead(addr, bytes)` -/
  | read (addr bytes : Nat)
  /-- `MemWrite(addr, bytes, v)` -/
  | write (addr bytes : Nat) (v : Word)
deriving DecidableEq, Repr

/-- One atomic event of the total order of R68. -/
inductive Move where
  /-- The engine agent takes its step, or holds where it has none (40_engine.md R101). -/
  | engine
  /-- The timebase agent takes its step: one pulse of the `tick` input (60_exceptions.md R220). -/
  | tick
  /-- The host agent makes a bus access (20_memory.md R61). -/
  | host (a : Access)
  /-- A push of `w` to CMD in the clock cycle of an engine step: the pop comes before the push (R68). -/
  | pushWithEngine (w : Word)
  /-- A write of `w` to STATUS in the clock cycle of an engine step: a set wins over a clear (R68, R30). -/
  | clearWithEngine (w : Word)
  /-- Someone else writes GPIO_OUT through the GPIO peripheral (10_state.md R46, 70_reset_and_hazards.md R251). -/
  | gpioWrite (v : Word)
  /-- The platform resets the GPIO peripheral (70_reset_and_hazards.md R241). -/
  | gpioReset
  /-- A clock edge with `rst` asserted (70_reset_and_hazards.md R240). -/
  | reset
deriving DecidableEq, Repr, Inhabited

/-- The moves in which the engine agent takes its step: alone, or in one clock cycle with a host write (R68). -/
inductive EngineTurn where
  | alone
  | withPush (w : Word)
  | withClear (w : Word)
deriving DecidableEq, Repr, Inhabited

/-- The move of an engine turn. -/
def EngineTurn.move : EngineTurn → Move
  | .alone => .engine
  | .withPush w => .pushWithEngine w
  | .withClear w => .clearWithEngine w

/-- Whether the engine agent takes its step in a move. -/
def Move.isTurn : Move → Bool
  | .engine | .pushWithEngine _ | .clearWithEngine _ => true
  | .tick | .host _ | .gpioWrite _ | .gpioReset | .reset => false

end Sys2Proof.Machine
end

