-- ==== Sys2Proof/Config.lean ====
section
/-! DEFINITION. The parameters of 00_scope.md R11, which the spec leaves to the platform, and the free choice of the next moves.
None has a body: a claim about the model holds whatever their values are (log entries 2 and 7). -/

namespace Sys2Proof.Config

/-- Which 256-byte block of the host's address space the register window is (R11: BASE is OPEN, 256-byte aligned). -/
opaque baseBlock : Nat

/-- `BASE`, the byte address of the register window (R11, R23). -/
def base : Nat := 256 * baseBlock

/-- One less than `FIFO_DEPTH`, so that the range 1..31 of R11 is in the type. -/
opaque fifoDepthLess1 : Fin 31

/-- `FIFO_DEPTH`, 1..31 (R11). -/
def fifoDepth : Nat := fifoDepthLess1.val + 1

/-- One less than `TICK_HZ`, so that the range 1..10^9 of R11 is in the type. -/
opaque tickHzLess1 : Fin 1000000000

/-- `TICK_HZ`, timebase ticks per second, 1..10^9 (R11). -/
def tickHz : Nat := tickHzLess1.val + 1

/-- `GPIO_OUT_RESET`, any 32-bit value (R11, 10_state.md R46). -/
opaque gpioOutReset : Word

/-- One less than `ITER_NS_ACT`, so that R11's "> 0" is in the type. -/
opaque iterNsActLess1 : Nat

/-- `ITER_NS_ACT`, timing annex only (R11). DESIGN CHOICE, log entry 13: whole nanoseconds. -/
def iterNsAct : Nat := iterNsActLess1 + 1

/-- `DRIVE_NS_ACT`, timing annex only (R11). DESIGN CHOICE, log entry 13: whole nanoseconds. -/
opaque driveNsAct : Nat

/-- `CTRL_NS_ACT`, timing annex only (R11). DESIGN CHOICE, log entry 13: whole nanoseconds. -/
opaque ctrlNsAct : Nat

/-! The free values of 40_engine.md R115: the moves the machine makes where the agenda of State says nothing, in rounds numbered
from 0. A round is any moves, an engine turn, any moves, a tick. DESIGN CHOICE, log entry 2. -/

/-- The moves of a round before its engine turn. -/
opaque freeBefore (round : Nat) : List Machine.Move

/-- The engine turn of a round. -/
opaque freeTurn (round : Nat) : Machine.EngineTurn

/-- The moves of a round between its engine turn and its tick. -/
opaque freeBetween (round : Nat) : List Machine.Move

end Sys2Proof.Config
end

