-- ==== Sys2Proof/Machine/State.lean ====
section
/-! DEFINITION. The state of the block (10_state.md R20, R23, R28, R43 to R46), what a step can stop with, and reset
(70_reset_and_hazards.md R240). Plain data. -/

namespace Sys2Proof.Machine

/-- The micro-operations of 00_scope.md R15, defined by 40_engine.md R110 to R113 and by R134 and R172. -/
inductive MicroOp where
  /-- R110 -/
  | drive (v : Word)
  /-- R111: `n` iterations are still to be done. -/
  | spin (n : Nat)
  /-- R112 -/
  | tickWait (t : Ticks)
  /-- R113 -/
  | tickHold (start t : Ticks)
  /-- 41_pulse_commands.md R134 -/
  | setScale (scale : Byte)
  /-- 43_control_commands.md R172 -/
  | maskCapture (pin : BitVec 5)
deriving DecidableEq, Repr

/-- The configuration a command was expanded from (10_state.md R45). -/
structure Snapshot where
  maskOn : Word
  maskOff : Word
  calDiv : Half
  t1h : Half
  t1l : Half
  t0h : Half
  t0l : Half
  ov1h : Half
  ov1l : Half
  ov0h : Half
  ov0l : Half
  resNs : Word
  stripLen : Half
  scale : Byte
deriving DecidableEq, Repr

/-- The engine state (10_state.md R44). -/
inductive Engine where
  | idle
  /-- `rem` is what is left of the command in progress, its head the micro-operation being performed. -/
  | exec (rem : List MicroOp) (snap : Snapshot)
deriving DecidableEq, Repr

/-- The error kinds (60_exceptions.md R200). -/
inductive ErrorKind where
  | ovf
  | cmd
  | noinit
  | nocal
deriving DecidableEq, Repr

/-- The events of the drive log (40_engine.md R100). -/
inductive LogEvent where
  /-- `EvStart(w)` -/
  | start (w : Word)
  /-- `EvError(kind, w)` -/
  | error (kind : ErrorKind) (w : Word)
  /-- `EvDrive(v)` -/
  | drive (v : Word)
  /-- `EvIter` -/
  | iter
  /-- `EvTickHold(start, t, end)` -/
  | tickHold (start t finish : Ticks)
  /-- `EvScale(s)` -/
  | scale (s : Byte)
  /-- `EvMask(on, off)` -/
  | mask (on off : Word)
deriving DecidableEq, Repr

/-- Why a step stops with a fault. None is raised by a command: a fault is a fault of the host's access or of a state no
run from reset reaches. -/
inductive Fault where
  /-- A host access that is not 32 bits wide or not word-aligned (20_memory.md R62: "A model treats such an access as a fault
  of the host's step"). Raised by `hostAccess`. Safe: log entry 3. -/
  | busError
  /-- A host access to an address outside the register window, which is no access to the block (R61, R66). Raised by
  `hostAccess`. Safe: log entry 4. -/
  | outsideWindow
  /-- The engine holds `Spin(0)`, which "No expansion produces" (40_engine.md R111). Raised by `stepSpin`. Safe: log entry 5. -/
  | spinZero
deriving DecidableEq, Repr

/-- Why a step is refused. -/
inductive Refusal where
  /-- An instruction that has no meaning yet, by its table mnemonic. Raised by no arm of `exec`: all twelve have a meaning. Safe. -/
  | notModelled (mnemonic : String)
deriving DecidableEq, Repr

/-- The whole state: the block's own (10_state.md R20), the GPIO register outside it (R46), the drive log (40_engine.md R100),
and the model's own `agenda`, `freeRounds` and `rdata`. -/
structure State where
  /-- CTRL.EN (R25, R26) -/
  ctrlEn : Bool
  /-- STATUS.ERR_OVF, sticky (R28, R30) -/
  errOvf : Bool
  /-- STATUS.ERR_CMD, sticky (R28, R30) -/
  errCmd : Bool
  /-- STATUS.ERR_NOINIT, sticky (R28, R30) -/
  errNoinit : Bool
  /-- STATUS.ERR_NOCAL, sticky (R28, R30) -/
  errNocal : Bool
  /-- MASK_VALID (R34) -/
  maskValid : Bool
  /-- MASK_ON (R32) -/
  maskOn : Word
  /-- MASK_OFF (R32) -/
  maskOff : Word
  /-- SCALE (R35) -/
  scale : Byte
  /-- CAL_DIV (R36) -/
  calDiv : Half
  /-- T1H (R37) -/
  t1h : Half
  /-- T1L (R37) -/
  t1l : Half
  /-- T0H (R37) -/
  t0h : Half
  /-- T0L (R37) -/
  t0l : Half
  /-- OV1H (R38) -/
  ov1h : Half
  /-- OV1L (R38) -/
  ov1l : Half
  /-- OV0H (R38) -/
  ov0h : Half
  /-- OV0L (R38) -/
  ov0l : Half
  /-- RES_NS (R39) -/
  resNs : Word
  /-- STRIP_LEN (R40) -/
  stripLen : Half
  /-- TIME (R42) -/
  time : Ticks
  /-- TIME_HI_SHADOW (R41) -/
  timeHiShadow : Word
  /-- The command FIFO, head first (R43) -/
  fifo : List Word
  /-- The engine state (R44) -/
  engine : Engine
  /-- GPIO_OUT, outside the block (R46) -/
  gpioOut : Word
  /-- The drive log, oldest event first (40_engine.md R100) -/
  log : List LogEvent
  /-- The word the block answered the host's last read with: the read data of R47's bus port. The model's own (log entry 6). -/
  rdata : Word
  /-- The next moves of the agents and the platform, in the order they happen (20_memory.md R68). The model's own (log entry 1). -/
  agenda : List Move
  /-- How many rounds of free moves have gone into the agenda (R115). The model's own (log entry 2). -/
  freeRounds : Nat
deriving DecidableEq, Repr

/-- The snapshot a command that starts now takes (10_state.md R45, 40_engine.md R102). -/
def State.snapshot (s : State) : Snapshot where
  maskOn := s.maskOn
  maskOff := s.maskOff
  calDiv := s.calDiv
  t1h := s.t1h
  t1l := s.t1l
  t0h := s.t0h
  t0l := s.t0l
  ov1h := s.ov1h
  ov1l := s.ov1l
  ov0h := s.ov0h
  ov0l := s.ov0l
  resNs := s.resNs
  stripLen := s.stripLen
  scale := s.scale

/-- The machine right after reset (R240); GPIO_OUT at the platform's reset value (R46, R241); `rdata`, `agenda` and
`freeRounds` at values of the model's choice (log entries 1, 2 and 6, DESIGN CHOICE). -/
def State.reset : State where
  ctrlEn := false
  errOvf := false
  errCmd := false
  errNoinit := false
  errNocal := false
  maskValid := false
  maskOn := 0
  maskOff := 0
  scale := 255
  calDiv := 0
  t1h := 700
  t1l := 600
  t0h := 400
  t0l := 900
  ov1h := 70
  ov1l := 150
  ov0h := 100
  ov0l := 100
  resNs := 7000
  stripLen := 60
  time := 0
  timeHiShadow := 0
  fifo := []
  engine := .idle
  gpioOut := Config.gpioOutReset
  log := []
  rdata := 0
  agenda := []
  freeRounds := 0

end Sys2Proof.Machine
end

