-- ==== Sys2Proof/Machine/Flags.lean ====
section
/-! DEFINITION. STATUS: its bits as functions of the state, its sticky bits and their clearing (10_state.md R28 to R30,
60_exceptions.md R200). -/

namespace Sys2Proof.Machine

/-- The cause code of an error: the index of its STATUS bit (R200). -/
def ErrorKind.code : ErrorKind → Nat
  | .ovf => 8
  | .cmd => 9
  | .noinit => 10
  | .nocal => 11

/-- BUSY (R29). -/
def State.busy (s : State) : Bool :=
  match s.engine with
  | .idle => false
  | .exec _ _ => true

/-- FIFO_EMPTY (R29). -/
def State.fifoEmpty (s : State) : Bool := s.fifo.isEmpty

/-- FIFO_FULL for a FIFO of the given depth (R29). -/
def State.fifoFull (depth : Nat) (s : State) : Bool := s.fifo.length == depth

/-- DONE (R29). -/
def State.done (s : State) : Bool := s.fifoEmpty && !s.busy

/-- The sticky bit of an error kind (R28). -/
def State.sticky (s : State) : ErrorKind → Bool
  | .ovf => s.errOvf
  | .cmd => s.errCmd
  | .noinit => s.errNoinit
  | .nocal => s.errNocal

/-- STATUS as a read returns it, from bit 31 down (R28, R29). -/
def statusWord (depth : Nat) (s : State) : Word :=
  0#11 ++ BitVec.ofNat 5 s.fifo.length ++ 0#4 ++
  BitVec.ofBool s.errNocal ++ BitVec.ofBool s.errNoinit ++ BitVec.ofBool s.errCmd ++ BitVec.ofBool s.errOvf ++ 0#3 ++
  BitVec.ofBool s.done ++ BitVec.ofBool s.maskValid ++ BitVec.ofBool (s.fifoFull depth) ++ BitVec.ofBool s.fifoEmpty ++
  BitVec.ofBool s.busy

/-- `STATUS[code(kind)] <- 1` (R201, R203). -/
def setSticky (kind : ErrorKind) (s : State) : State :=
  { s with
    errOvf := s.errOvf || kind == .ovf
    errCmd := s.errCmd || kind == .cmd
    errNoinit := s.errNoinit || kind == .noinit
    errNocal := s.errNocal || kind == .nocal }

/-- A host write of `w` to STATUS clears the sticky bits whose bit of `w` is 1 (R30). -/
def clearSticky (w : Word) (s : State) : State :=
  { s with
    errOvf := s.errOvf && !w.getLsbD 8
    errCmd := s.errCmd && !w.getLsbD 9
    errNoinit := s.errNoinit && !w.getLsbD 10
    errNocal := s.errNocal && !w.getLsbD 11 }

end Sys2Proof.Machine
end

