-- ==== Sys2Proof/Machine/Operands.lean ====
section
/-! DEFINITION. The arithmetic of the commands and their expansion into micro-operations (00_scope.md R14, R15, 40_engine.md
R105 to R109, 42_frame_commands.md R150 and R151). -/

namespace Sys2Proof.Machine

/-- `satsub(a, b)` (R14). -/
def satsub (a b : Nat) : Nat := if b ≤ a then a - b else 0

/-- `ceil_div(a, b)`, for b > 0 (R14). -/
def ceilDiv (a b : Nat) : Nat := (a + b - 1) / b

/-- `elapsed_at_least(start, t)` at the count `now` (60_exceptions.md R221). -/
def elapsedAtLeast (now start t : Ticks) : Bool := t ≤ now - start

/-- The iteration count of one phase: its requested duration, less its correction, in units of CAL_DIV, at least 1 (R105). -/
def iterations (duration correction calDiv : Half) : Nat :=
  max 1 (satsub duration.toNat correction.toNat / calDiv.toNat)

/-- H1 or H0: the iterations of a bit's high phase (R105). -/
def highIterations (snap : Snapshot) : Bool → Nat
  | true => iterations snap.t1h snap.ov1h snap.calDiv
  | false => iterations snap.t0h snap.ov0h snap.calDiv

/-- L1 or L0: the iterations of a bit's low phase (R105). -/
def lowIterations (snap : Snapshot) : Bool → Nat
  | true => iterations snap.t1l snap.ov1l snap.calDiv
  | false => iterations snap.t0l snap.ov0l snap.calDiv

/-- `bitU(b)` (R106). -/
def bitU (snap : Snapshot) (b : Bool) : List MicroOp :=
  [.drive snap.maskOn, .spin (highIterations snap b), .drive snap.maskOff, .spin (lowIterations snap b)]

/-- `byteU(x)`: eight bits, most significant first (R107). -/
def byteU (snap : Snapshot) (x : Byte) : List MicroOp :=
  bitU snap (x.getLsbD 7) ++ bitU snap (x.getLsbD 6) ++ bitU snap (x.getLsbD 5) ++ bitU snap (x.getLsbD 4) ++
  bitU snap (x.getLsbD 3) ++ bitU snap (x.getLsbD 2) ++ bitU snap (x.getLsbD 1) ++ bitU snap (x.getLsbD 0)

/-- `pixelU(r, g, b)`: green, red, blue (R108). -/
def pixelU (snap : Snapshot) (r g b : Byte) : List MicroOp :=
  byteU snap g ++ byteU snap r ++ byteU snap b

/-- `scale8(c, s)` (R109). -/
def scale8 (c s : Byte) : Byte :=
  if s = 0#8 then 0#8
  else if c.toNat * s.toNat / 255 = 0 ∧ c ≠ 0#8 then 1#8
  else BitVec.ofNat 8 (c.toNat * s.toNat / 255)

/-- `scaledU(r, g, b, s)` with s the snapshot's SCALE (R109, R104). -/
def scaledU (snap : Snapshot) (r g b : Byte) : List MicroOp :=
  pixelU snap (scale8 r snap.scale) (scale8 g snap.scale) (scale8 b snap.scale)

/-- `L^n`: n copies of a list, one after another (R15). -/
def copies (n : Nat) (us : List MicroOp) : List MicroOp := (List.replicate n us).flatten

/-- RES_TICKS for a latch time and a tick rate (R151). -/
def resTicks (tickHz : Nat) (resNs : Word) : Nat := ceilDiv (resNs.toNat * tickHz) 1000000000 + 1

/-- `latchU` (R150). -/
def latchU (tickHz : Nat) (snap : Snapshot) : List MicroOp :=
  [.drive snap.maskOff, .tickWait (BitVec.ofNat 64 (resTicks tickHz snap.resNs))]

/-- `1 << pin` (R14, R172). -/
def pinBit (pin : BitVec 5) : Word := 1#32 <<< pin.toNat

/-- Byte lane k of a bus word: bits [8k+7:8k] (20_memory.md R63). -/
def byteLane (w : Word) (k : Fin 4) : Byte := w.extractLsb' (8 * k.val) 8

end Sys2Proof.Machine
end

