-- ==== Sys2Proof/Machine/Ops.lean ====
section
/-! DEFINITION. The shared operations: the drive log, the GPIO port, raising an error, starting a command
(40_engine.md R100 to R103, 60_exceptions.md R201, 10_state.md R46). -/

namespace Sys2Proof.Machine

/-- What a step of this machine answers. -/
abbrev StepResult := Host.Outcome State Fault Refusal

/-- The second part of a step, if the first answers a next state. -/
def thenDo (o : StepResult) (f : State → StepResult) : StepResult :=
  match o with
  | .next s => f s
  | .fault r => .fault r
  | .refused r => .refused r

/-- `log e`: append an event to the drive log (R100). -/
def record (e : LogEvent) (s : State) : State := { s with log := s.log ++ [e] }

/-- `engine <- e` (R44). -/
def setEngine (e : Engine) (s : State) : State := { s with engine := e }

/-- `GpioRead()` (00_scope.md R13). -/
def gpioRead (s : State) : Word := s.gpioOut

/-- `GpioWrite(v)`: the whole of GPIO_OUT in one write (R13, R46). -/
def gpioWrite (v : Word) (s : State) : State := { s with gpioOut := v }

/-- `raise Error(kind)` at a command start: the sticky bit is set, the event logged, the engine Idle, and nothing else happens
(60_exceptions.md R201, R209). -/
def raiseError (kind : ErrorKind) (w : Word) (s : State) : State :=
  setEngine .idle (record (.error kind w) (setSticky kind s))

/-- A start without error: the snapshot is taken, `EvStart` logged, the engine given the expansion (40_engine.md R102). -/
def beginCommand (w : Word) (expand : Snapshot → List MicroOp) (s : State) : State :=
  setEngine (.exec (expand s.snapshot) s.snapshot) (record (.start w) s)

/-- The start of a command that needs neither masks nor CAL_DIV (R103: NOP, MASKINIT, SET_SCALE, DELAY_TICKS, WAIT_ITERS). -/
def startPlain (i : Instr) (expand : Snapshot → List MicroOp) (s : State) : StepResult :=
  .next (beginCommand (encode i) expand s)

/-- The start of a command that drives the line but has no calibrated hold (R103: LATCH). -/
def startDriving (i : Instr) (expand : Snapshot → List MicroOp) (s : State) : StepResult :=
  if s.maskValid then .next (beginCommand (encode i) expand s)
  else .next (raiseError .noinit (encode i) s)

/-- The start of a command that drives the line with calibrated holds (R103: the other six). -/
def startTimed (i : Instr) (expand : Snapshot → List MicroOp) (s : State) : StepResult :=
  if s.maskValid then
    if s.calDiv = 0#16 then .next (raiseError .nocal (encode i) s)
    else .next (beginCommand (encode i) expand s)
  else .next (raiseError .noinit (encode i) s)

end Sys2Proof.Machine
end

