-- ==== Sys2Proof/Machine/Bus.lean ====
section
/-! DEFINITION. The register window: its map, what a read returns and does, what a write does, and the host's accesses
(10_state.md R23 to R41, 20_memory.md R60 to R66, 60_exceptions.md R203). -/

namespace Sys2Proof.Machine

/-- The registers of the map (R23). -/
inductive Reg where
  | ctrl | status | cmd | maskOn | maskOff | scale | calDiv
  | t1h | t1l | t0h | t0l | ov1h | ov1l | ov0h | ov0l
  | resNs | stripLen | timeLo | timeHi
deriving DecidableEq, Repr

/-- The byte offset of a register in the window (R23). -/
def Reg.offset : Reg → Nat
  | .ctrl => 0x00
  | .status => 0x04
  | .cmd => 0x08
  | .maskOn => 0x0C
  | .maskOff => 0x10
  | .scale => 0x14
  | .calDiv => 0x18
  | .t1h => 0x1C
  | .t1l => 0x20
  | .t0h => 0x24
  | .t0l => 0x28
  | .ov1h => 0x2C
  | .ov1l => 0x30
  | .ov0h => 0x34
  | .ov0l => 0x38
  | .resNs => 0x3C
  | .stripLen => 0x40
  | .timeLo => 0x44
  | .timeHi => 0x48

/-- Every register of the map, in its order (R23). -/
def Reg.all : List Reg :=
  [.ctrl, .status, .cmd, .maskOn, .maskOff, .scale, .calDiv, .t1h, .t1l, .t0h, .t0l, .ov1h, .ov1l, .ov0h, .ov0l,
   .resNs, .stripLen, .timeLo, .timeHi]

/-- The register at an offset; none at a reserved one (R23). -/
def Reg.at (off : Nat) : Option Reg := Reg.all.find? (fun r => r.offset == off)

/-- What a read of a register returns, for a FIFO of the given depth (R23, R24; zero-extended where the register is narrower). -/
def readReg (depth : Nat) (s : State) : Reg → Word
  | .ctrl => (BitVec.ofBool s.ctrlEn).setWidth 32
  | .status => statusWord depth s
  | .cmd => 0#32
  | .maskOn => s.maskOn
  | .maskOff => s.maskOff
  | .scale => s.scale.setWidth 32
  | .calDiv => s.calDiv.setWidth 32
  | .t1h => s.t1h.setWidth 32
  | .t1l => s.t1l.setWidth 32
  | .t0h => s.t0h.setWidth 32
  | .t0l => s.t0l.setWidth 32
  | .ov1h => s.ov1h.setWidth 32
  | .ov1l => s.ov1l.setWidth 32
  | .ov0h => s.ov0h.setWidth 32
  | .ov0l => s.ov0l.setWidth 32
  | .resNs => s.resNs
  | .stripLen => s.stripLen.setWidth 32
  | .timeLo => s.time.setWidth 32
  | .timeHi => s.timeHiShadow

/-- What a read of a register does beside returning its value: TIME_LO captures the upper half, no other does anything (R41, R64). -/
def readEffect (r : Reg) (s : State) : State :=
  if r = .timeLo then { s with timeHiShadow := s.time.extractLsb' 32 32 } else s

/-- A push of `w` to CMD: appended if there is room, else dropped with ERR_OVF (R31, 60_exceptions.md R203). -/
def pushCmd (depth : Nat) (w : Word) (s : State) : State :=
  if s.fifo.length < depth then { s with fifo := s.fifo ++ [w] }
  else record (.error .ovf w) (setSticky .ovf s)

/-- A write of `w` to CTRL (R25 to R27). -/
def writeCtrl (w : Word) (s : State) : State :=
  { s with fifo := if w.getLsbD 1 then [] else s.fifo, ctrlEn := w.getLsbD 0 }

/-- What a write of `w` to a register does, for a FIFO of the given depth (R23, R24; reserved bits of `w` are ignored). -/
def writeReg (depth : Nat) (r : Reg) (w : Word) (s : State) : State :=
  match r with
  | .ctrl => writeCtrl w s
  | .status => clearSticky w s
  | .cmd => pushCmd depth w s
  | .maskOn | .maskOff | .scale | .timeLo | .timeHi => s
  | .calDiv => { s with calDiv := w.setWidth 16 }
  | .t1h => { s with t1h := w.setWidth 16 }
  | .t1l => { s with t1l := w.setWidth 16 }
  | .t0h => { s with t0h := w.setWidth 16 }
  | .t0l => { s with t0l := w.setWidth 16 }
  | .ov1h => { s with ov1h := w.setWidth 16 }
  | .ov1l => { s with ov1l := w.setWidth 16 }
  | .ov0h => { s with ov0h := w.setWidth 16 }
  | .ov0l => { s with ov0l := w.setWidth 16 }
  | .resNs => { s with resNs := w }
  | .stripLen => { s with stripLen := w.setWidth 16 }

/-- The word a read sends back to the host (R47's bus port; log entry 6). -/
def answer (w : Word) (s : State) : State := { s with rdata := w }

/-- `MemRead` of an offset: the word goes back to the host, reserved offsets read 0 (R24, R61). -/
def readOffset (depth off : Nat) (s : State) : State :=
  match Reg.at off with
  | some r => answer (readReg depth s r) (readEffect r s)
  | none => answer 0#32 s

/-- `MemWrite` of an offset: the register's write action, none at a reserved offset (R24, R61). -/
def writeOffset (depth off : Nat) (w : Word) (s : State) : State :=
  match Reg.at off with
  | some r => writeReg depth r w s
  | none => s

/-- The address lies in the window of 0x100 bytes at BASE (R23, R60). -/
def inWindow (addr : Nat) : Bool := Config.base ≤ addr && addr < Config.base + 0x100

/-- The access is 32 bits wide and word-aligned (R61, R62); BASE is 256-byte aligned, so the offset decides. -/
def wordAccess (addr bytes : Nat) : Bool := bytes == 4 && (addr - Config.base) % 4 == 0

/-- A host access: outside the window it is none to the block (log entry 4); in it, a whole aligned word or a bus error
(R61, R62, log entry 3). -/
def guardAccess (addr bytes : Nat) (action : Nat → State) : StepResult :=
  if inWindow addr then
    if wordAccess addr bytes then .next (action (addr - Config.base)) else .fault .busError
  else .fault .outsideWindow

/-- The host agent's step (R61 to R64). -/
def hostAccess (a : Access) (s : State) : StepResult :=
  match a with
  | .read addr bytes => guardAccess addr bytes (fun off => readOffset Config.fifoDepth off s)
  | .write addr bytes v => guardAccess addr bytes (fun off => writeOffset Config.fifoDepth off v s)

/-- `W REG, v` (30_encoding.md R88). -/
def hostWrite (r : Reg) (v : Word) : Move := .host (.write (Config.base + r.offset) 4 v)

/-- `R REG` (30_encoding.md R88). -/
def hostRead (r : Reg) : Move := .host (.read (Config.base + r.offset) 4)

/-- `C <command>` (30_encoding.md R88). -/
def hostCommand (i : Instr) : Move := hostWrite .cmd (encode i)

end Sys2Proof.Machine
end

