-- ==== Sys2Proof/Machine/Control.lean ====
section
/-! DEFINITION. The control commands (43_control_commands.md): what each does when it reaches the head of the FIFO. -/

namespace Sys2Proof.Machine

/-- NOP: the empty expansion (R170). -/
def execNop (s : State) : StepResult := startPlain .nop (fun _ => []) s

/-- MASKINIT: `[MaskCapture(PIN)]` (R171). -/
def execMaskinit (pin : BitVec 5) (s : State) : StepResult :=
  startPlain (.maskinit pin) (fun _ => [.maskCapture pin]) s

/-- DELAY_TICKS: `[TickWait(T)]`, T zero-extended to 64 bits (R174). -/
def execDelayTicks (t : BitVec 28) (s : State) : StepResult :=
  startPlain (.delayTicks t) (fun _ => [.tickWait (t.setWidth 64)]) s

/-- WAIT_ITERS: `[Spin(max(1, N))]` (R176). -/
def execWaitIters (n : BitVec 28) (s : State) : StepResult :=
  startPlain (.waitIters n) (fun _ => [.spin (max 1 n.toNat)]) s

end Sys2Proof.Machine
end

