-- ==== Sys2Proof/Machine/Frame.lean ====
section
/-! DEFINITION. The frame commands (42_frame_commands.md): what each does when it reaches the head of the FIFO. -/

namespace Sys2Proof.Machine

/-- LATCH: `latchU` (R150). -/
def execLatch (s : State) : StepResult :=
  startDriving .latch (fun snap => latchU Config.tickHz snap) s

/-- FILL: `pixelU(R, G, B)^N ++ (if SHOW = 1 then latchU else [])`, N the snapshot's STRIP_LEN (R152). -/
def execFill (shown : Bool) (r g b : Byte) (s : State) : StepResult :=
  startTimed (.fill shown r g b)
    (fun snap => copies snap.stripLen.toNat (pixelU snap r g b) ++ if shown then latchU Config.tickHz snap else []) s

/-- FILL_SCALED: `scaledU(R, G, B, snap.SCALE)^N`, N the snapshot's STRIP_LEN (R153). -/
def execFillScaled (r g b : Byte) (s : State) : StepResult :=
  startTimed (.fillScaled r g b) (fun snap => copies snap.stripLen.toNat (scaledU snap r g b)) s

end Sys2Proof.Machine
end

