-- ==== Sys2Proof/Machine/Pulse.lean ====
section
/-! DEFINITION. The pulse commands (41_pulse_commands.md): what each does when it reaches the head of the FIFO. -/

namespace Sys2Proof.Machine

/-- SEND_BIT: `bitU(BIT)` (R130). -/
def execSendBit (bit : Bool) (s : State) : StepResult :=
  startTimed (.sendBit bit) (fun snap => bitU snap bit) s

/-- SEND_BYTE: `byteU(BYTE)` (R131). -/
def execSendByte (byte : Byte) (s : State) : StepResult :=
  startTimed (.sendByte byte) (fun snap => byteU snap byte) s

/-- SEND_PIXEL: `pixelU(R, G, B)` (R132). -/
def execSendPixel (r g b : Byte) (s : State) : StepResult :=
  startTimed (.sendPixel r g b) (fun snap => pixelU snap r g b) s

/-- SET_SCALE: `[SetScale(S)]` (R134). -/
def execSetScale (scale : Byte) (s : State) : StepResult :=
  startPlain (.setScale scale) (fun _ => [.setScale scale]) s

/-- SEND_PIXEL_SCALED: `scaledU(R, G, B, snap.SCALE)` (R136). -/
def execSendPixelScaled (r g b : Byte) (s : State) : StepResult :=
  startTimed (.sendPixelScaled r g b) (fun snap => scaledU snap r g b) s

end Sys2Proof.Machine
end

