-- ==== Sys2Proof/Machine/Dispatch.lean ====
section
/-! DEFINITION. The start of a legal command, after its word has left the FIFO (40_engine.md R102 to R104): one arm a command. -/

namespace Sys2Proof.Machine

def exec (i : Instr) (s : State) : Host.Outcome State Fault Refusal :=
  match i with
  | .nop => Sys2Proof.Machine.execNop s
  | .maskinit pin => Sys2Proof.Machine.execMaskinit pin s
  | .sendBit bit => Sys2Proof.Machine.execSendBit bit s
  | .sendByte byte => Sys2Proof.Machine.execSendByte byte s
  | .sendPixel r g b => Sys2Proof.Machine.execSendPixel r g b s
  | .setScale scale => Sys2Proof.Machine.execSetScale scale s
  | .sendPixelScaled r g b => Sys2Proof.Machine.execSendPixelScaled r g b s
  | .latch => Sys2Proof.Machine.execLatch s
  | .fill shown r g b => Sys2Proof.Machine.execFill shown r g b s
  | .fillScaled r g b => Sys2Proof.Machine.execFillScaled r g b s
  | .delayTicks t => Sys2Proof.Machine.execDelayTicks t s
  | .waitIters n => Sys2Proof.Machine.execWaitIters n s

end Sys2Proof.Machine
end

