-- ==== Sys2Proof/Machine/Engine.lean ====
section
/-! DEFINITION. The engine agent: its micro-operations and its one step (40_engine.md R101, R102, R110 to R114,
41_pulse_commands.md R134, 43_control_commands.md R172). -/

namespace Sys2Proof.Machine

/-- `Drive(v)` (R110). -/
def stepDrive (v : Word) (rest : List MicroOp) (snap : Snapshot) (s : State) : StepResult :=
  .next (setEngine (.exec rest snap) (record (.drive v) (gpioWrite v s)))

/-- `Spin(n)`: one iteration (R111). `Spin(0)` is not defined there: a fault, log entry 5. -/
def stepSpin (n : Nat) (rest : List MicroOp) (snap : Snapshot) (s : State) : StepResult :=
  match n with
  | 0 => .fault .spinZero
  | 1 => .next (setEngine (.exec rest snap) (record .iter s))
  | more + 2 => .next (setEngine (.exec (.spin (more + 1) :: rest) snap) (record .iter s))

/-- `TickWait(t)`: the timebase is sampled (R112). -/
def stepTickWait (t : Ticks) (rest : List MicroOp) (snap : Snapshot) (s : State) : StepResult :=
  .next (setEngine (.exec (.tickHold s.time t :: rest) snap) s)

/-- `TickHold(start, t)`: the hold ends once the ticks have elapsed; until then the engine has no step (R113, R101). -/
def stepTickHold (start t : Ticks) (rest : List MicroOp) (snap : Snapshot) (s : State) : StepResult :=
  if elapsedAtLeast s.time start t then .next (setEngine (.exec rest snap) (record (.tickHold start t s.time) s))
  else .next s

/-- `SetScale(s)` (41_pulse_commands.md R134). -/
def stepSetScale (scale : Byte) (rest : List MicroOp) (snap : Snapshot) (s : State) : StepResult :=
  .next (setEngine (.exec rest snap) (record (.scale scale) { s with scale := scale }))

/-- The masks of a pin relative to a GPIO value: `cur | (1 << pin)` and `cur & ~(1 << pin)` (43_control_commands.md R172). -/
def masksOf (cur : Word) (pin : BitVec 5) : Word × Word := (cur ||| pinBit pin, cur &&& ~~~(pinBit pin))

/-- `MaskCapture(pin)` (43_control_commands.md R172). -/
def stepMaskCapture (pin : BitVec 5) (rest : List MicroOp) (snap : Snapshot) (s : State) : StepResult :=
  let masks := masksOf (gpioRead s) pin
  .next (setEngine (.exec rest snap) (record (.mask masks.1 masks.2)
    { s with maskOn := masks.1, maskOff := masks.2, maskValid := true }))

/-- One engine step on the head of the command in progress (R101). -/
def stepMicroOp (u : MicroOp) (rest : List MicroOp) (snap : Snapshot) (s : State) : StepResult :=
  match u with
  | .drive v => stepDrive v rest snap s
  | .spin n => stepSpin n rest snap s
  | .tickWait t => stepTickWait t rest snap s
  | .tickHold start t => stepTickHold start t rest snap s
  | .setScale scale => stepSetScale scale rest snap s
  | .maskCapture pin => stepMaskCapture pin rest snap s

/-- The start of a word that has just left the FIFO (R102): a command starts, an illegal word raises ERR_CMD (R103, R204). -/
def startWord (w : Word) (s : State) : StepResult :=
  match decode w with
  | .legal i => exec i s
  | .illegal _ => .next (raiseError .cmd w s)

/-- The engine in `Idle`: the head of the FIFO starts if CTRL.EN = 1 and there is one; else the engine holds (R101, R102). -/
def stepIdle (s : State) : StepResult :=
  match s.fifo with
  | [] => .next s
  | w :: queued => if s.ctrlEn then startWord w { s with fifo := queued } else .next s

/-- The engine agent's step; where R101 gives it none, it holds. -/
def engineStep (s : State) : StepResult :=
  match s.engine with
  | .idle => stepIdle s
  | .exec [] _ => .next (setEngine .idle s)
  | .exec (u :: rest) snap => stepMicroOp u rest snap s

/-- Whether R101 gives the engine a step. -/
def engineEnabled (s : State) : Bool :=
  match s.engine with
  | .idle => s.ctrlEn && !s.fifo.isEmpty
  | .exec (.tickHold start t :: _) _ => elapsedAtLeast s.time start t
  | .exec _ _ => true

end Sys2Proof.Machine
end

