-- ==== Sys2Proof/Machine/Agents.lean ====
section
/-! DEFINITION. What each move does: the three agents' steps, the platform's events, and the two same-cycle resolutions
(00_scope.md R8, 20_memory.md R68, 60_exceptions.md R220, 70_reset_and_hazards.md R240 and R241). -/

namespace Sys2Proof.Machine

/-- The timebase agent's step: `TIME <- (TIME + 1) mod 2^64` (60_exceptions.md R220). -/
def tickStep (s : State) : State := { s with time := s.time + 1 }

/-- The block's reset: every state element of the block and the drive log at its reset value, GPIO_OUT untouched (R240, R241).
The model's own `rdata`, `agenda` and `freeRounds` are outside the block and stay (log entry 10). -/
def blockReset (s : State) : State :=
  { State.reset with gpioOut := s.gpioOut, rdata := s.rdata, agenda := s.agenda, freeRounds := s.freeRounds }

/-- One atomic event (R68). -/
def performMove (m : Move) (s : State) : StepResult :=
  match m with
  | .engine => engineStep s
  | .tick => .next (tickStep s)
  | .host a => hostAccess a s
  | .pushWithEngine w => thenDo (engineStep s) (fun t => .next (pushCmd Config.fifoDepth w t))
  | .clearWithEngine w => engineStep (clearSticky w s)
  | .gpioWrite v => .next (gpioWrite v s)
  | .gpioReset => .next (gpioWrite Config.gpioOutReset s)
  | .reset => .next (blockReset s)

/-- A list of events, one after another. -/
def performMoves : List Move → State → StepResult
  | [], s => .next s
  | m :: ms, s => thenDo (performMove m s) (performMoves ms)

end Sys2Proof.Machine
end

