-- ==== Sys2Proof/Machine/Schedule.lean ====
section
/-! DEFINITION. Which move comes next, and the weak fairness of 40_engine.md R115 and 60_exceptions.md R220: imposed on the
machine's own free moves, and a predicate for every other interleaving (log entry 2). -/

namespace Sys2Proof.Machine

/-- The first move of a round of free moves, and the rest of the round: every round has an engine turn and a tick. -/
def freeRound (round : Nat) : Move × List Move :=
  let fromTurn := Config.freeBetween round ++ [.tick]
  match Config.freeBefore round with
  | [] => ((Config.freeTurn round).move, fromTurn)
  | m :: later => (m, later ++ (Config.freeTurn round).move :: fromTurn)

/-- The next move of the agenda is performed; an empty agenda takes in the next round of free moves. -/
def scheduledStep (s : State) : StepResult :=
  match s.agenda with
  | m :: later => performMove m { s with agenda := later }
  | [] => performMove (freeRound s.freeRounds).1
      { s with agenda := (freeRound s.freeRounds).2, freeRounds := s.freeRounds + 1 }

/-- The move `n` steps ahead, for an agenda and the number of the next round. -/
def scheduled : Nat → List Move → Nat → Move
  | 0, m :: _, _ => m
  | 0, [], round => (freeRound round).1
  | n + 1, _ :: later, round => scheduled n later round
  | n + 1, [], round => scheduled n (freeRound round).2 (round + 1)

/-- `r` is the run of the moves `f`: no move of it stops. -/
def Runs (f : Nat → Move) (r : Nat → State) : Prop := ∀ n, performMove (f n) (r n) = .next (r (n + 1))

/-- Ticks are "taken infinitely often in every run" (60_exceptions.md R220). -/
def TicksForever (f : Nat → Move) : Prop := ∀ n, ∃ k, n ≤ k ∧ f k = .tick

/-- "An engine step that stays enabled is eventually taken" (40_engine.md R115). -/
def EngineTurnsTaken (f : Nat → Move) (r : Nat → State) : Prop :=
  ∀ n, (∀ k, n ≤ k → engineEnabled (r k) = true) → ∃ k, n ≤ k ∧ (f k).isTurn = true

/-- The weak fairness of the three agents' interleaving (R115, R220). -/
def WeaklyFair (f : Nat → Move) (r : Nat → State) : Prop := TicksForever f ∧ EngineTurnsTaken f r

end Sys2Proof.Machine
end

