-- ==== Sys2Proof/Machine/Step.lean ====
section
/-! DEFINITION. One step of the whole machine: the next event of the total order of 20_memory.md R68. -/

namespace Sys2Proof.Machine

/-- The next move of the agenda is performed; an empty agenda takes in a round of free moves (40_engine.md R115, log entries 1
and 2). -/
def step (s : State) : Host.Outcome State Fault Refusal := scheduledStep s

/-- The word of a table row placed where the next step takes its command from: the head of the FIFO, with the engine Idle,
CTRL.EN = 1 and the engine's move next (40_engine.md R102, log entry 11). -/
def State.withFetchWord (s : State) (nbits w : Nat) : State :=
  { s with
    fifo := tableWord nbits w :: s.fifo.tail
    engine := .idle
    ctrlEn := true
    agenda := .engine :: s.agenda }

end Sys2Proof.Machine
end

