-- ==== Sys2Proof/Machine/Timing.lean ====
section
/-! DEFINITION. The timing annex (70_reset_and_hazards.md R260 to R262): how long engine steps take in real time. No step of the
machine depends on this file. -/

namespace Sys2Proof.Machine

/-- The real durations of the engine's steps, in whole nanoseconds (00_scope.md R11; log entry 13). -/
structure StepTimes where
  driveNs : Nat
  iterNs : Nat
  ctrlNs : Nat
deriving DecidableEq, Repr

/-- The durations of this platform (R11). -/
def stepTimes : StepTimes := ⟨Config.driveNsAct, Config.iterNsAct, Config.ctrlNsAct⟩

/-- The duration of the engine step that is enabled, 0 where the engine holds: a held TickHold lasts until its condition
holds, an idle engine until the host acts (R260). -/
def stepNs (p : StepTimes) (s : State) : Nat :=
  if engineEnabled s then
    match s.engine with
    | .exec (.drive _ :: _) _ => p.driveNs
    | .exec (.spin _ :: _) _ => p.iterNs
    | _ => p.ctrlNs
  else 0

/-- The duration of `k` engine steps in a row and the state they end in (R260). -/
def runEngine (p : StepTimes) : Nat → State → Option (Nat × State)
  | 0, s => some (0, s)
  | k + 1, s =>
    match engineStep s with
    | .next t => (runEngine p k t).map (fun r => (stepNs p s + r.1, r.2))
    | _ => none

/-- The duration of a phase of `iters` iterations after its drive: from its write of GPIO_OUT to the next (R260). -/
def phaseNs (p : StepTimes) (iters : Nat) : Nat := p.driveNs + iters * p.iterNs

/-- The high time of a bit (R260). -/
def highNs (p : StepTimes) (snap : Snapshot) (b : Bool) : Nat := phaseNs p (highIterations snap b)

/-- The low time of a bit inside a command (R260). -/
def lowNs (p : StepTimes) (snap : Snapshot) (b : Bool) : Nat := phaseNs p (lowIterations snap b)

/-- The low time of a command's last bit when the next line-driving command is already queued and `nops` NOPs stand between
them: the finish and the start step of a command boundary, and two more for each NOP (R261). -/
def boundaryLowNs (p : StepTimes) (snap : Snapshot) (b : Bool) (nops : Nat) : Nat :=
  lowNs p snap b + 2 * p.ctrlNs + nops * (2 * p.ctrlNs)

/-- The duration of a phase requested as `requested` ns with CAL_DIV = ITER_NS_ACT and its correction DRIVE_NS_ACT (R262). -/
def calibratedPhaseNs (p : StepTimes) (requested : Nat) : Nat :=
  p.driveNs + (requested - p.driveNs) / p.iterNs * p.iterNs

/-- The divisor a calibration run gives: `elapsed` ticks for `iters` iterations (R247). -/
def calibratedDivisor (tickHz elapsed iters : Nat) : Nat := max 1 (elapsed * 1000000000 / (tickHz * iters))

end Sys2Proof.Machine
end

