-- ==== Sys2Proof/Machine/Observe.lean ====
section
/-! DEFINITION. What is observed of the block: the waveform of a drive log, the line's pin and the level of the data line
(40_engine.md R100, 10_state.md R33). -/

namespace Sys2Proof.Machine

/-- The event is one of the waveform's (R100). -/
def LogEvent.inWaveform : LogEvent → Bool
  | .drive _ | .iter | .tickHold _ _ _ => true
  | .start _ | .error _ _ | .scale _ | .mask _ _ => false

/-- The waveform: "the sub-list of `EvDrive`, `EvIter` and `EvTickHold` events" (R100). -/
def waveform (es : List LogEvent) : List LogEvent := es.filter LogEvent.inWaveform

/-- LINE_PIN: the index at which valid masks differ (10_state.md R33). -/
def State.linePin (s : State) : Option Nat :=
  if s.maskValid then (List.range 32).find? (fun k => s.maskOn ^^^ s.maskOff == 1#32 <<< k) else none

/-- The level of the data line after `EvDrive(v)`: `v[LINE_PIN]` (R100). -/
def lineLevel (pin : Nat) (v : Word) : Bool := v.getLsbD pin

/-- The levels of the data line after each drive of a log (R100). -/
def lineLevels (pin : Nat) (es : List LogEvent) : List Bool :=
  es.filterMap (fun e => match e with
    | .drive v => some (lineLevel pin v)
    | _ => none)

/-- "The strip's data line is GPIO_OUT[LINE_PIN]" (10_state.md R33). -/
def State.dataLine (s : State) : Option Bool := s.linePin.map (fun pin => s.gpioOut.getLsbD pin)

end Sys2Proof.Machine
end

