-- ==== Sys2Proof/Safety.lean ====
section
/-! DEFINITION. What a good state is (10_state.md R33, R34, R43, 40_engine.md R110, R111) and the terms the statements use:
waveforms without the times of their holds (40_engine.md R115), the moves that leave a command alone, and its finish. -/

namespace Sys2Proof.Safety

open Sys2Proof.Machine

/-- Two masks of one pin: they differ in exactly that bit, 1 in the ON mask and 0 in the OFF mask (R33). -/
def PinMasks (on off : Word) (pin : BitVec 5) : Prop :=
  on ^^^ off = pinBit pin ∧ on.getLsbD pin.toNat = true ∧ off.getLsbD pin.toNat = false

/-- R33 and R34: valid masks are masks of one pin; before MASKINIT both are 0. -/
def MasksInv (s : State) : Prop :=
  if s.maskValid then ∃ pin, PinMasks s.maskOn s.maskOff pin else s.maskOn = 0#32 ∧ s.maskOff = 0#32

/-- A micro-operation an expansion or the engine can leave to be done: a drive writes a mask of the snapshot, valid masks of
one pin (R110); a spin has at least one iteration to do (R111). -/
def MicroOpOk (snap : Snapshot) : MicroOp → Prop
  | .drive v => (v = snap.maskOn ∨ v = snap.maskOff) ∧ ∃ pin, PinMasks snap.maskOn snap.maskOff pin
  | .spin n => 1 ≤ n
  | .tickWait _ | .tickHold _ _ | .setScale _ | .maskCapture _ => True

/-- The micro-operation is a TickHold, which only the step of a TickWait makes (R112). -/
def isHold : MicroOp → Bool
  | .tickHold _ _ => true
  | _ => false

/-- The last value a list of micro-operations drives, if it drives any. -/
def lastDrive : List MicroOp → Option Word
  | [] => none
  | .drive v :: us => some ((lastDrive us).getD v)
  | _ :: us => lastDrive us

/-- The command in progress is one an expansion can have left: its micro-operations are ok, a TickHold is only its head, and if
it drives the line, its last drive is MASK_OFF. -/
def EngineInv (e : Engine) : Prop :=
  match e with
  | .idle => True
  | .exec rem snap =>
    (∀ u ∈ rem, MicroOpOk snap u) ∧ (∀ u ∈ rem.tail, isHold u = false) ∧
    (lastDrive rem = none ∨ lastDrive rem = some snap.maskOff)

/-- The invariant of the machine: the FIFO holds at most FIFO_DEPTH words (R43), the masks are as R33 and R34 say, and the
engine's list is one an expansion can have left. -/
def Inv (s : State) : Prop :=
  s.fifo.length ≤ Config.fifoDepth ∧ MasksInv s ∧ EngineInv s.engine

/-- A move of the engine or the timebase: the block left alone by host and platform. -/
def isInner : Move → Bool
  | .engine | .tick => true
  | _ => false

/-- A move that can change GPIO_OUT from outside the block, or abandon the command in progress. -/
def disturbsTheLine : Move → Bool
  | .gpioWrite _ | .gpioReset | .reset => true
  | _ => false

/-- An event of the waveform without the `start` and `end` of its hold: what R115 says is fixed. -/
inductive WaveEvent where
  | drive (v : Word)
  | iter
  | hold (ticks : Ticks)
deriving DecidableEq, Repr

/-- What is fixed of an event of the waveform (R115); nothing of an event outside it. -/
def waveEvent : LogEvent → List WaveEvent
  | .drive v => [.drive v]
  | .iter => [.iter]
  | .tickHold _ t _ => [.hold t]
  | .start _ | .error _ _ | .scale _ | .mask _ _ => []

/-- A waveform "except for the `start` and `end` values of each `EvTickHold`" (R115). -/
def untimed (es : List LogEvent) : List WaveEvent := es.flatMap waveEvent

/-- The waveform of one micro-operation when it is performed to its end (R110 to R113, 41_pulse_commands.md R134,
43_control_commands.md R172). -/
def waveOfMicroOp : MicroOp → List WaveEvent
  | .drive v => [.drive v]
  | .spin n => List.replicate n .iter
  | .tickWait t | .tickHold _ t => [.hold t]
  | .setScale _ | .maskCapture _ => []

/-- The waveform a list of micro-operations makes when it is performed to its end. -/
def waveOf (us : List MicroOp) : List WaveEvent := us.flatMap waveOfMicroOp

/-- The commands that send protocol bits (R103's last list). -/
def isTimed : Instr → Bool
  | .sendBit _ | .sendByte _ | .sendPixel _ _ _ | .sendPixelScaled _ _ _ | .fill _ _ _ _ | .fillScaled _ _ _ => true
  | _ => false

/-- The commands that drive the line (R103's first list). -/
def isDriving : Instr → Bool
  | .latch => true
  | i => isTimed i

/-- The start checks of a legal command pass (R103). -/
def Startable (i : Instr) (s : State) : Prop :=
  (isDriving i → s.maskValid = true) ∧ (isTimed i → s.calDiv ≠ 0#16)

/-- The next engine step would start the word `w`, with `queued` behind it in the FIFO (R102). -/
def HeadReady (s : State) (w : Word) (queued : List Word) : Prop :=
  s.engine = .idle ∧ s.ctrlEn = true ∧ s.fifo = w :: queued

/-- A step that answers no fault and no refusal. -/
def Completes (o : StepResult) : Prop := ∃ t, o = .next t

/-- The moves lead from `s` to `t`, the first state in which the engine is Idle (R114). -/
def FinishesBy : List Move → State → State → Prop
  | [], s, t => s.engine = .idle ∧ s = t
  | m :: ms, s, t => s.engine ≠ .idle ∧ ∃ u, performMove m s = .next u ∧ FinishesBy ms u t

/-- In the run of the moves `f`, no tick carries TIME so far around that a hold whose ticks have elapsed would no longer see it:
its engine turn comes within the 2^64 - t ticks in which it stays enabled. -/
def NoHoldWraps (f : Nat → Move) (r : Nat → State) : Prop :=
  ∀ n start t rest snap, (r n).engine = .exec (.tickHold start t :: rest) snap →
    elapsedAtLeast (r n).time start t = true → f n = .tick → elapsedAtLeast (r (n + 1)).time start t = true

end Sys2Proof.Safety
end

