-- ==== Sys2Proof/Certificates/Slice0/Obligations.lean ====
section
/-! DEFINITION. The statements for the provers. Each docstring names the rule or the sections of spec/ it formalises. -/

open Sys2Proof Sys2Proof.Machine Sys2Proof.Safety

/-! ## Encoding -/

/-- 95_test_vectors.md 2.3 to 2.6, words written out by the spec: each decodes to its command, each illegal word is refused. -/
def Obligations.SpecWordsDecodeAsTheSpecSays : Prop :=
  decode 0x00000000#32 = .legal .nop ∧ decode 0x10000013#32 = .legal (.maskinit 19#5) ∧
  decode 0x20000001#32 = .legal (.sendBit true) ∧ decode 0x300000A5#32 = .legal (.sendByte 0xA5#8) ∧
  decode 0x40123456#32 = .legal (.sendPixel 0x12#8 0x34#8 0x56#8) ∧ decode 0x50000080#32 = .legal (.setScale 128#8) ∧
  decode 0x60FF0A00#32 = .legal (.sendPixelScaled 255#8 10#8 0#8) ∧ decode 0x70000000#32 = .legal .latch ∧
  decode 0x81FF0000#32 = .legal (.fill true 255#8 0#8 0#8) ∧ decode 0x900000C8#32 = .legal (.fillScaled 0#8 0#8 200#8) ∧
  decode 0xA0000064#32 = .legal (.delayTicks 100#28) ∧ decode 0xBFFFFFFF#32 = .legal (.waitIters 0xFFFFFFF#28) ∧
  decode 0x00000001#32 = .illegal .reservedBit ∧ decode 0x41000000#32 = .illegal .reservedBit ∧
  decode 0x82000000#32 = .illegal .reservedBit ∧ decode 0x91000000#32 = .illegal .reservedBit ∧
  decode 0xC0000000#32 = .illegal .reservedOp ∧ decode 0xD1234567#32 = .illegal .reservedOp

/-- 30_encoding.md R82, R83: no bit of an encoding is dropped, for every command and every operand value. -/
def Obligations.DecodingAnEncodedCommandGivesItBack : Prop :=
  ∀ i : Instr, decode (encode i) = .legal i

/-- 30_encoding.md R83, R84: a legal word has one meaning, and that meaning one word. -/
def Obligations.ALegalWordIsTheEncodingOfItsCommand : Prop :=
  ∀ (w : Word) (i : Instr), decode w = .legal i → encode i = w

/-- 30_encoding.md R82, R84: at most one row of the opcode map covers a word, and a word is legal exactly if one does. -/
def Obligations.AWordIsLegalExactlyWhenOneOpcodeRowCoversIt : Prop :=
  ∀ w : Word, (opcodeMap.filter (fun row => row.covers w)).length ≤ 1 ∧
    ((∃ i, decode w = .legal i) ↔ ∃ row ∈ opcodeMap, row.covers w = true)

/-- 30_encoding.md R86, R87: the words of the assembler's table, as sums of shifted operands; the pseudo-instructions; an operand
out of its range of R81 is refused. -/
def Obligations.AssemblerBuildsTheWordsOfTheTable : Prop :=
  (∀ r g b : Nat, r < 256 → g < 256 → b < 256 →
    assemble (.sendPixel r g b) = some [BitVec.ofNat 32 (0x40000000 + r * 2 ^ 16 + g * 2 ^ 8 + b)] ∧
    assemble (.sendPixelScaled r g b) = some [BitVec.ofNat 32 (0x60000000 + r * 2 ^ 16 + g * 2 ^ 8 + b)] ∧
    assemble (.fillScaled r g b) = some [BitVec.ofNat 32 (0x90000000 + r * 2 ^ 16 + g * 2 ^ 8 + b)] ∧
    (∀ s, s < 256 → assemble (.sendPixelScaledBy r g b s) =
      some [BitVec.ofNat 32 (0x50000000 + s), BitVec.ofNat 32 (0x60000000 + r * 2 ^ 16 + g * 2 ^ 8 + b)] ∧
      assemble (.fillScaledBy r g b s) =
        some [BitVec.ofNat 32 (0x50000000 + s), BitVec.ofNat 32 (0x90000000 + r * 2 ^ 16 + g * 2 ^ 8 + b)]) ∧
    (∀ v, v < 2 → assemble (.fill r g b v) =
      some [BitVec.ofNat 32 (0x80000000 + v * 2 ^ 24 + r * 2 ^ 16 + g * 2 ^ 8 + b)])) ∧
  assemble .nop = some [0x00000000#32] ∧ assemble .latch = some [0x70000000#32] ∧
  (∀ n, n < 32 → assemble (.maskinit n) = some [BitVec.ofNat 32 (0x10000000 + n)]) ∧
  (∀ n, n < 2 → assemble (.sendBit n) = some [BitVec.ofNat 32 (0x20000000 + n)] ∧
    assemble (.clear n) = some [BitVec.ofNat 32 (0x80000000 + n * 2 ^ 24)]) ∧
  (∀ n, n < 256 → assemble (.sendByte n) = some [BitVec.ofNat 32 (0x30000000 + n)] ∧
    assemble (.setScale n) = some [BitVec.ofNat 32 (0x50000000 + n)]) ∧
  (∀ n, n < 2 ^ 28 → assemble (.delayTicks n) = some [BitVec.ofNat 32 (0xA0000000 + n)] ∧
    assemble (.waitIters n) = some [BitVec.ofNat 32 (0xB0000000 + n)]) ∧
  (∀ n, 32 ≤ n → assemble (.maskinit n) = none) ∧
  (∀ n, 256 ≤ n → assemble (.sendByte n) = none ∧ assemble (.setScale n) = none ∧
    ∀ r g b, assemble (.sendPixelScaledBy r g b n) = none ∧ assemble (.fillScaledBy r g b n) = none) ∧
  (∀ n, 2 ^ 28 ≤ n → assemble (.delayTicks n) = none ∧ assemble (.waitIters n) = none) ∧
  (∀ n, 2 ≤ n → assemble (.sendBit n) = none ∧ assemble (.clear n) = none ∧ ∀ r g b, assemble (.fill r g b n) = none) ∧
  (∀ r g b : Nat, 256 ≤ r ∨ 256 ≤ g ∨ 256 ≤ b → assemble (.sendPixel r g b) = none ∧ assemble (.sendPixelScaled r g b) = none ∧
    assemble (.fillScaled r g b) = none ∧
    ∀ n, assemble (.fill r g b n) = none ∧ assemble (.sendPixelScaledBy r g b n) = none ∧
      assemble (.fillScaledBy r g b n) = none)

/-! ## Starting a command -/

/-- 40_engine.md R102: when the next move is the engine's, the engine is Idle and enabled and the head of the FIFO decodes to a
command, the step is `exec` of it at the state with that move and that word gone. -/
def Obligations.AStepRunsTheDecodedHeadOfTheFifo : Prop :=
  ∀ (s : State) (w : Word) (queued : List Word) (later : List Move) (i : Instr),
    HeadReady s w queued → s.agenda = .engine :: later → decode w = .legal i →
    step s = exec i { s with agenda := later, fifo := queued }

/-- 60_exceptions.md R204 with R201: a word no row of the opcode map covers leaves the FIFO, sets ERR_CMD, logs the error and does
nothing else, whatever the masks and CAL_DIV are. -/
def Obligations.AnIllegalHeadOnlySetsErrCmd : Prop :=
  ∀ (s : State) (w : Word) (queued : List Word), HeadReady s w queued → (∀ row ∈ opcodeMap, row.covers w = false) →
    performMove .engine s = .next { s with fifo := queued, errCmd := true, log := s.log ++ [.error .cmd w] }

/-- 60_exceptions.md R205 with R201: without valid masks the seven line-driving commands set ERR_NOINIT and do nothing else,
whatever CAL_DIV is. -/
def Obligations.DrivingCommandsNeedMasks : Prop :=
  ∀ (s : State) (i : Instr), isDriving i = true → s.maskValid = false →
    exec i s = .next { s with errNoinit := true, engine := .idle, log := s.log ++ [.error .noinit (encode i)] }

/-- 60_exceptions.md R206 with R201: with masks but CAL_DIV = 0 the six timed commands set ERR_NOCAL and do nothing else; LATCH,
DELAY_TICKS and WAIT_ITERS start, with one expansion, whatever CAL_DIV is. -/
def Obligations.TimedCommandsNeedCalibration : Prop :=
  ∀ (s : State) (i : Instr), s.maskValid = true →
    (isTimed i = true → s.calDiv = 0#16 →
      exec i s = .next { s with errNocal := true, engine := .idle, log := s.log ++ [.error .nocal (encode i)] }) ∧
    (isTimed i = false → ∃ rem, ∀ divisor : Half,
      exec i { s with calDiv := divisor } = .next
        { s with
          calDiv := divisor
          engine := .exec rem { s with calDiv := divisor }.snapshot
          log := s.log ++ [.start (encode i)] })

/-- 43_control_commands.md R170, 40_engine.md R114: NOP starts, does nothing and finishes. -/
def Obligations.NopStartsAndFinishes : Prop :=
  (∀ s : State, exec .nop s = .next { s with engine := .exec [] s.snapshot, log := s.log ++ [.start 0x00000000#32] }) ∧
  (∀ (s : State) (queued : List Word), HeadReady s 0x00000000#32 queued →
    performMoves [.engine, .engine] s = .next { s with fifo := queued, log := s.log ++ [.start 0x00000000#32] })

/-- 43_control_commands.md R171, R172: MASKINIT, from its start to its finish; GPIO_OUT is not written. -/
def Obligations.MaskinitCapturesThePinMasks : Prop :=
  (∀ (s : State) (pin : BitVec 5), exec (.maskinit pin) s =
    .next { s with engine := .exec [.maskCapture pin] s.snapshot, log := s.log ++ [.start (encode (.maskinit pin))] }) ∧
  (∀ (s : State) (pin : BitVec 5) (queued : List Word), HeadReady s (encode (.maskinit pin)) queued →
    performMoves [.engine, .engine, .engine] s = .next
      { s with
        fifo := queued
        maskOn := s.gpioOut ||| 1#32 <<< pin.toNat
        maskOff := s.gpioOut &&& ~~~(1#32 <<< pin.toNat)
        maskValid := true
        log := s.log ++ [.start (encode (.maskinit pin)),
          .mask (s.gpioOut ||| 1#32 <<< pin.toNat) (s.gpioOut &&& ~~~(1#32 <<< pin.toNat))] })

/-- 41_pulse_commands.md R134: SET_SCALE, from its start to its finish; it needs neither masks nor CAL_DIV. -/
def Obligations.SetScaleSetsTheScale : Prop :=
  (∀ (s : State) (v : Byte), exec (.setScale v) s =
    .next { s with engine := .exec [.setScale v] s.snapshot, log := s.log ++ [.start (encode (.setScale v))] }) ∧
  (∀ (s : State) (v : Byte) (queued : List Word), HeadReady s (encode (.setScale v)) queued →
    performMoves [.engine, .engine, .engine] s = .next
      { s with fifo := queued, scale := v, log := s.log ++ [.start (encode (.setScale v)), .scale v] })

/-- 41_pulse_commands.md R130, 40_engine.md R105, R106: SEND_BIT starts the pulse of its bit, each phase an ON or OFF drive and
its iteration count. -/
def Obligations.SendBitStartsThePulseOfItsBit : Prop :=
  ∀ s : State, s.maskValid = true → s.calDiv ≠ 0#16 →
    exec (.sendBit true) s = .next
      { s with
        log := s.log ++ [.start 0x20000001#32]
        engine := .exec
          [.drive s.maskOn, .spin (max 1 ((s.t1h.toNat - s.ov1h.toNat) / s.calDiv.toNat)),
           .drive s.maskOff, .spin (max 1 ((s.t1l.toNat - s.ov1l.toNat) / s.calDiv.toNat))] s.snapshot } ∧
    exec (.sendBit false) s = .next
      { s with
        log := s.log ++ [.start 0x20000000#32]
        engine := .exec
          [.drive s.maskOn, .spin (max 1 ((s.t0h.toNat - s.ov0h.toNat) / s.calDiv.toNat)),
           .drive s.maskOff, .spin (max 1 ((s.t0l.toNat - s.ov0l.toNat) / s.calDiv.toNat))] s.snapshot }

/-- 41_pulse_commands.md R131, 40_engine.md R107: SEND_BYTE starts its eight bits, most significant first. -/
def Obligations.SendByteStartsItsBitsMostSignificantFirst : Prop :=
  ∀ (s : State) (x : Byte), s.maskValid = true → s.calDiv ≠ 0#16 →
    exec (.sendByte x) s = .next
      { s with
        log := s.log ++ [.start (encode (.sendByte x))]
        engine := .exec ([7, 6, 5, 4, 3, 2, 1, 0].flatMap (fun k => bitU s.snapshot (x.getLsbD k))) s.snapshot }

/-- 41_pulse_commands.md R132, 40_engine.md R108: SEND_PIXEL starts the bytes green, red, blue, in that order. -/
def Obligations.SendPixelStartsGreenRedBlue : Prop :=
  ∀ (s : State) (r g b : Byte), s.maskValid = true → s.calDiv ≠ 0#16 →
    exec (.sendPixel r g b) s = .next
      { s with
        log := s.log ++ [.start (encode (.sendPixel r g b))]
        engine := .exec ([g, r, b].flatMap (byteU s.snapshot)) s.snapshot }

/-- 41_pulse_commands.md R136: SEND_PIXEL_SCALED starts the three scaled channels, green, red, blue. -/
def Obligations.SendPixelScaledStartsTheScaledChannels : Prop :=
  ∀ (s : State) (r g b : Byte), s.maskValid = true → s.calDiv ≠ 0#16 →
    exec (.sendPixelScaled r g b) s = .next
      { s with
        log := s.log ++ [.start (encode (.sendPixelScaled r g b))]
        engine := .exec ([scale8 g s.scale, scale8 r s.scale, scale8 b s.scale].flatMap (byteU s.snapshot)) s.snapshot }

/-- 42_frame_commands.md R150, R151: LATCH drives MASK_OFF and waits RES_TICKS ticks, whatever CAL_DIV is. -/
def Obligations.LatchDrivesLowAndWaitsResTicks : Prop :=
  ∀ s : State, s.maskValid = true → ∃ t : Ticks,
    t.toNat = (s.resNs.toNat * Config.tickHz + 999999999) / 1000000000 + 1 ∧
    exec .latch s = .next
      { s with
        log := s.log ++ [.start 0x70000000#32]
        engine := .exec [.drive s.maskOff, .tickWait t] s.snapshot }

/-- 42_frame_commands.md R152, R154: FILL sends its pixel STRIP_LEN times and then latches if SHOW = 1; N = 0 is no special case. -/
def Obligations.FillSendsThePixelStripLenTimes : Prop :=
  ∀ (s : State) (shown : Bool) (r g b : Byte), s.maskValid = true → s.calDiv ≠ 0#16 → ∃ pixels latch,
    pixels = (List.replicate s.stripLen.toNat (pixelU s.snapshot r g b)).flatten ∧
    latch = (if shown then [.drive s.maskOff, .tickWait (BitVec.ofNat 64 (resTicks Config.tickHz s.resNs))] else []) ∧
    exec (.fill shown r g b) s = .next
      { s with
        log := s.log ++ [.start (encode (.fill shown r g b))]
        engine := .exec (pixels ++ latch) s.snapshot } ∧
    pixels.length = 96 * s.stripLen.toNat

/-- 42_frame_commands.md R153: FILL_SCALED sends its scaled pixel STRIP_LEN times and never latches. -/
def Obligations.FillScaledSendsTheScaledPixelAndNeverLatches : Prop :=
  ∀ (s : State) (r g b : Byte), s.maskValid = true → s.calDiv ≠ 0#16 → ∃ pixels,
    pixels = (List.replicate s.stripLen.toNat
      (pixelU s.snapshot (scale8 r s.scale) (scale8 g s.scale) (scale8 b s.scale))).flatten ∧
    exec (.fillScaled r g b) s = .next
      { s with
        log := s.log ++ [.start (encode (.fillScaled r g b))]
        engine := .exec pixels s.snapshot } ∧
    ∀ t, MicroOp.tickWait t ∉ pixels

/-- 43_control_commands.md R174: DELAY_TICKS samples TIME and holds until its ticks have elapsed, then finishes; nothing but TIME,
the FIFO, the log and the engine changes. -/
def Obligations.DelayTicksHoldsForItsTicks : Prop :=
  (∀ (s : State) (t : BitVec 28), exec (.delayTicks t) s =
    .next { s with engine := .exec [.tickWait (t.setWidth 64)] s.snapshot, log := s.log ++ [.start (encode (.delayTicks t))] }) ∧
  (∀ (s : State) (t : BitVec 28) (queued : List Word) (ticks extra : Nat), HeadReady s (encode (.delayTicks t)) queued →
    ticks < 2 ^ 64 →
    (ticks < t.toNat →
      performMoves ([.engine, .engine] ++ List.replicate ticks .tick ++ List.replicate extra .engine) s = .next
        { s with
          fifo := queued
          time := s.time + BitVec.ofNat 64 ticks
          log := s.log ++ [.start (encode (.delayTicks t))]
          engine := .exec [.tickHold s.time (t.setWidth 64)] s.snapshot }) ∧
    (t.toNat ≤ ticks →
      performMoves ([.engine, .engine] ++ List.replicate ticks .tick ++ [.engine, .engine]) s = .next
        { s with
          fifo := queued
          time := s.time + BitVec.ofNat 64 ticks
          log := s.log ++ [.start (encode (.delayTicks t)),
            .tickHold s.time (t.setWidth 64) (s.time + BitVec.ofNat 64 ticks)] }))

/-- 43_control_commands.md R176: WAIT_ITERS spins N iterations, one for N = 0, then finishes; GPIO_OUT is not touched. -/
def Obligations.WaitItersSpinsItsIterations : Prop :=
  (∀ (s : State) (n : BitVec 28), exec (.waitIters n) s =
    .next { s with engine := .exec [.spin (max 1 n.toNat)] s.snapshot, log := s.log ++ [.start (encode (.waitIters n))] }) ∧
  (∀ (s : State) (n : BitVec 28) (queued : List Word), HeadReady s (encode (.waitIters n)) queued →
    performMoves (List.replicate (max 1 n.toNat + 2) .engine) s = .next
      { s with
        fifo := queued
        log := s.log ++ [.start (encode (.waitIters n))] ++ List.replicate (max 1 n.toNat) .iter })

/-! ## Micro-operations -/

/-- 40_engine.md R110: Drive writes the whole of GPIO_OUT, logs it and goes on; in a good state what it writes is a mask of the
snapshot. By R100 the level of the data line is then `v[LINE_PIN]`. -/
def Obligations.DriveWritesGpioWhole : Prop :=
  ∀ (s : State) (v : Word) (rest : List MicroOp) (snap : Snapshot), s.engine = .exec (.drive v :: rest) snap →
    performMove .engine s = .next { s with gpioOut := v, log := s.log ++ [.drive v], engine := .exec rest snap } ∧
    (Inv s → v = snap.maskOn ∨ v = snap.maskOff) ∧
    (∀ t, performMove .engine s = .next t → t.dataLine = s.linePin.map (fun pin => lineLevel pin v))

/-- 40_engine.md R111: one iteration a step; `Spin(n)` gives exactly n events, and nothing else happens. -/
def Obligations.SpinTakesOneStepPerIteration : Prop :=
  ∀ (s : State) (n : Nat) (rest : List MicroOp) (snap : Snapshot), s.engine = .exec (.spin n :: rest) snap → 1 ≤ n →
    performMove .engine s = .next
      { s with
        log := s.log ++ [.iter]
        engine := if n = 1 then .exec rest snap else .exec (.spin (n - 1) :: rest) snap } ∧
    performMoves (List.replicate n .engine) s = .next
      { s with log := s.log ++ List.replicate n .iter, engine := .exec rest snap }

/-- 40_engine.md R112: TickWait becomes a TickHold from the TIME sampled in that step. -/
def Obligations.TickWaitSamplesTime : Prop :=
  ∀ (s : State) (t : Ticks) (rest : List MicroOp) (snap : Snapshot), s.engine = .exec (.tickWait t :: rest) snap →
    performMove .engine s = .next { s with engine := .exec (.tickHold s.time t :: rest) snap }

/-- 40_engine.md R113: TickHold ends exactly when `(TIME - start) mod 2^64 >= t`; until then the engine holds. -/
def Obligations.TickHoldEndsOnceElapsed : Prop :=
  ∀ (s : State) (start t : Ticks) (rest : List MicroOp) (snap : Snapshot),
    s.engine = .exec (.tickHold start t :: rest) snap →
    (t.toNat ≤ (s.time.toNat + 2 ^ 64 - start.toNat) % 2 ^ 64 →
      performMove .engine s = .next { s with log := s.log ++ [.tickHold start t s.time], engine := .exec rest snap }) ∧
    ((s.time.toNat + 2 ^ 64 - start.toNat) % 2 ^ 64 < t.toNat → performMove .engine s = .next s)

/-- 43_control_commands.md R172: MaskCapture forms both masks from GPIO_OUT as it is in that step, bit by bit; GPIO_OUT stays.
By 10_state.md R33 LINE_PIN is then the pin, and the data line is high under MASK_ON and low under MASK_OFF. -/
def Obligations.MaskCaptureFormsBothMasks : Prop :=
  ∀ (s : State) (pin : BitVec 5) (rest : List MicroOp) (snap : Snapshot), s.engine = .exec (.maskCapture pin :: rest) snap →
    ∃ (on off : Word) (t : State), (∀ k, k < 32 → on.getLsbD k = (s.gpioOut.getLsbD k || k == pin.toNat)) ∧
      (∀ k, k < 32 → off.getLsbD k = (s.gpioOut.getLsbD k && k != pin.toNat)) ∧
      t = { s with maskOn := on, maskOff := off, maskValid := true, log := s.log ++ [.mask on off], engine := .exec rest snap } ∧
      performMove .engine s = .next t ∧
      t.linePin = some pin.toNat ∧ lineLevel pin.toNat on = true ∧ lineLevel pin.toNat off = false

/-- 40_engine.md R101, R114: the engine holds where it has no step, and makes progress where it has one. -/
def Obligations.TheEngineMovesExactlyWhenItHasAStep : Prop :=
  (∀ s : State, engineEnabled s = false → performMove .engine s = .next s) ∧
  (∀ s : State, Inv s → engineEnabled s = true → ∃ t, performMove .engine s = .next t ∧ t ≠ s) ∧
  (∀ (s : State) (snap : Snapshot), s.engine = .exec [] snap →
    performMove .engine s = .next { s with engine := .idle })

/-! ## Arithmetic -/

/-- 40_engine.md R105: each iteration count is the floor of the corrected duration by CAL_DIV, at least 1 and at most 65535. -/
def Obligations.IterationCountsAreClampedFloors : Prop :=
  ∀ snap : Snapshot, snap.calDiv ≠ 0#16 →
    highIterations snap true = max 1 ((snap.t1h.toNat - snap.ov1h.toNat) / snap.calDiv.toNat) ∧
    lowIterations snap true = max 1 ((snap.t1l.toNat - snap.ov1l.toNat) / snap.calDiv.toNat) ∧
    highIterations snap false = max 1 ((snap.t0h.toNat - snap.ov0h.toNat) / snap.calDiv.toNat) ∧
    lowIterations snap false = max 1 ((snap.t0l.toNat - snap.ov0l.toNat) / snap.calDiv.toNat) ∧
    ∀ b, (1 ≤ highIterations snap b ∧ highIterations snap b ≤ 65535) ∧
      (1 ≤ lowIterations snap b ∧ lowIterations snap b ≤ 65535)

/-- 40_engine.md R109: the scaled channel as a number, and the laws the spec derives from the rule ("Laws [derived: from this
rule]"). -/
def Obligations.ScalingRoundsDownAndKeepsNonzero : Prop :=
  ∀ c s : Byte,
    (scale8 c s).toNat =
      (if s = 0#8 then 0 else if c.toNat * s.toNat / 255 = 0 ∧ c ≠ 0#8 then 1 else c.toNat * s.toNat / 255) ∧
    scale8 c 255#8 = c ∧ scale8 0#8 s = 0#8 ∧ scale8 c s ≤ c ∧ (c ≠ 0#8 → s ≠ 0#8 → 1 ≤ (scale8 c s).toNat)

/-- 42_frame_commands.md R151: the latch's tick count covers RES_NS with one tick to spare, is the least that does, and fits
64 bits. That one tick is enough for the phase of the sample is the spec's own derivation. -/
def Obligations.LatchTicksCoverTheLatchTime : Prop :=
  ∀ resNs : Word,
    resNs.toNat * Config.tickHz ≤ (resTicks Config.tickHz resNs - 1) * 1000000000 ∧
    (resNs ≠ 0#32 → (resTicks Config.tickHz resNs - 2) * 1000000000 < resNs.toNat * Config.tickHz) ∧
    (resNs = 0#32 → resTicks Config.tickHz resNs = 1) ∧
    (BitVec.ofNat 64 (resTicks Config.tickHz resNs)).toNat = resTicks Config.tickHz resNs

/-- 60_exceptions.md R221: the predicate counts the ticks since `start`, across a wrap of the counter too (the spec's own
derivation, for waits shorter than 2^64 ticks). -/
def Obligations.ElapsedCountsTicksAcrossAWrap : Prop :=
  ∀ (s : State) (t : Ticks) (ticks : Nat), ticks < 2 ^ 64 → ∃ later,
    performMoves (List.replicate ticks .tick) s = .next later ∧
    (elapsedAtLeast later.time s.time t = true ↔ t.toNat ≤ ticks)

/-! ## Host accesses -/

/-- 20_memory.md R61, R62: in the window, an access that is not one aligned word is a bus error, and every aligned word access
completes. -/
def Obligations.OnlyAlignedWordAccessesComplete : Prop :=
  ∀ (s : State) (off bytes : Nat) (v : Word), off < 256 →
    (bytes ≠ 4 ∨ off % 4 ≠ 0 →
      performMove (.host (.read (Config.base + off) bytes)) s = .fault .busError ∧
      performMove (.host (.write (Config.base + off) bytes v)) s = .fault .busError) ∧
    (bytes = 4 → off % 4 = 0 →
      Completes (performMove (.host (.read (Config.base + off) bytes)) s) ∧
      Completes (performMove (.host (.write (Config.base + off) bytes v)) s))

/-- 10_state.md R24: reserved offsets and bits read 0 and ignore writes, RO registers ignore writes, a CMD read returns 0, and no
read but TIME_LO's does anything; an access that is not one aligned word is a bus error. By R32, R35 and R41 MASK_ON, MASK_OFF,
SCALE and TIME_HI read their current values. -/
def Obligations.ReservedAndReadOnlyPlacesIgnoreWrites : Prop :=
  ∀ (s : State) (v : Word),
    (∀ off, 0x4C ≤ off → off ≤ 0xFC → off % 4 = 0 →
      performMove (.host (.read (Config.base + off) 4)) s = .next { s with rdata := 0#32 } ∧
      performMove (.host (.write (Config.base + off) 4 v)) s = .next s) ∧
    (∀ r ∈ [Reg.maskOn, .maskOff, .scale, .timeLo, .timeHi], performMove (hostWrite r v) s = .next s) ∧
    (∀ r ∈ [Reg.calDiv, .t1h, .t1l, .t0h, .t0l, .ov1h, .ov1l, .ov0h, .ov0l, .stripLen],
      performMove (hostWrite r v) s = performMove (hostWrite r (v &&& 0x0000FFFF#32)) s ∧
      ∃ t, performMove (hostRead r) s = .next t ∧ t.rdata &&& 0xFFFF0000#32 = 0#32) ∧
    performMove (hostWrite .ctrl v) s = performMove (hostWrite .ctrl (v &&& 0x00000003#32)) s ∧
    performMove (hostWrite .status v) s = performMove (hostWrite .status (v &&& 0x00000F00#32)) s ∧
    performMove (hostRead .cmd) s = .next { s with rdata := 0#32 } ∧
    (∀ r, r ≠ Reg.timeLo → ∃ x, performMove (hostRead r) s = .next { s with rdata := x }) ∧
    performMove (hostRead .maskOn) s = .next { s with rdata := s.maskOn } ∧
    performMove (hostRead .maskOff) s = .next { s with rdata := s.maskOff } ∧
    (∃ x : Word, x.toNat = s.scale.toNat ∧ performMove (hostRead .scale) s = .next { s with rdata := x }) ∧
    performMove (hostRead .timeHi) s = .next { s with rdata := s.timeHiShadow } ∧
    (∃ t, performMove (hostRead .status) s = .next t ∧ t.rdata &&& 0xFFE0F0E0#32 = 0#32) ∧
    (∃ t, performMove (hostRead .scale) s = .next t ∧ t.rdata &&& 0xFFFFFF00#32 = 0#32) ∧
    (∃ t, performMove (hostRead .ctrl) s = .next t ∧ t.rdata &&& 0xFFFFFFFE#32 = 0#32) ∧
    (∀ off bytes, off < 256 → (bytes ≠ 4 ∨ off % 4 ≠ 0) →
      performMove (.host (.read (Config.base + off) bytes)) s = .fault .busError ∧
      performMove (.host (.write (Config.base + off) bytes v)) s = .fault .busError)

/-- 10_state.md R36 to R40: a configuration register reads back the bits of it that were written, and the write changes that
register only. -/
def Obligations.ConfigurationRegistersReadBackAsWritten : Prop :=
  ∀ (s : State) (v : Word),
    performMove (hostWrite .calDiv v) s = .next { s with calDiv := v.setWidth 16 } ∧
    performMove (hostWrite .t1h v) s = .next { s with t1h := v.setWidth 16 } ∧
    performMove (hostWrite .t1l v) s = .next { s with t1l := v.setWidth 16 } ∧
    performMove (hostWrite .t0h v) s = .next { s with t0h := v.setWidth 16 } ∧
    performMove (hostWrite .t0l v) s = .next { s with t0l := v.setWidth 16 } ∧
    performMove (hostWrite .ov1h v) s = .next { s with ov1h := v.setWidth 16 } ∧
    performMove (hostWrite .ov1l v) s = .next { s with ov1l := v.setWidth 16 } ∧
    performMove (hostWrite .ov0h v) s = .next { s with ov0h := v.setWidth 16 } ∧
    performMove (hostWrite .ov0l v) s = .next { s with ov0l := v.setWidth 16 } ∧
    performMove (hostWrite .stripLen v) s = .next { s with stripLen := v.setWidth 16 } ∧
    performMove (hostWrite .resNs v) s = .next { s with resNs := v } ∧
    (∀ r ∈ [Reg.calDiv, .t1h, .t1l, .t0h, .t0l, .ov1h, .ov1l, .ov0h, .ov0l, .stripLen],
      ∃ t, performMoves [hostWrite r v, hostRead r] s = .next t ∧ t.rdata.toNat = v.toNat % 65536) ∧
    (∃ t, performMoves [hostWrite .resNs v, hostRead .resNs] s = .next t ∧ t.rdata = v)

/-- 10_state.md R25, R27: a write of CTRL sets EN and, with bit 1, empties the FIFO; no error bit is set, and the command in
progress is not affected; CTRL reads EN; with EN = 0 no command starts; EN resets to 0; after a flush FIFO_COUNT reads 0 and
FIFO_EMPTY 1. -/
def Obligations.CtrlWriteSetsEnableAndFlushes : Prop :=
  (∀ (s : State) (w : Word),
    performMove (hostWrite .ctrl w) s =
      .next { s with fifo := if w.getLsbD 1 then [] else s.fifo, ctrlEn := w.getLsbD 0 } ∧
    performMove (hostRead .ctrl) s = .next { s with rdata := if s.ctrlEn then 1#32 else 0#32 } ∧
    (w.getLsbD 1 = true → ∃ t, performMoves [hostWrite .ctrl w, hostRead .status] s = .next t ∧
      t.rdata.extractLsb' 16 5 = 0#5 ∧ t.rdata.getLsbD 1 = true)) ∧
  (∀ s : State, s.engine = .idle → s.ctrlEn = false → performMove .engine s = .next s) ∧
  State.reset.ctrlEn = false

/-- 10_state.md R28, R29: STATUS, bit by bit, in every good state; a write of STATUS changes nothing its RO bits show. -/
def Obligations.StatusReadShowsTheState : Prop :=
  ∀ s : State, Inv s → ∃ x : Word, performMove (hostRead .status) s = .next { s with rdata := x } ∧
    (x.getLsbD 0 = true ↔ s.engine ≠ .idle) ∧ (x.getLsbD 1 = true ↔ s.fifo.length = 0) ∧
    (x.getLsbD 2 = true ↔ s.fifo.length = Config.fifoDepth) ∧ x.getLsbD 3 = s.maskValid ∧
    (x.getLsbD 4 = true ↔ s.fifo.length = 0 ∧ s.engine = .idle) ∧
    x.getLsbD 8 = s.errOvf ∧ x.getLsbD 9 = s.errCmd ∧ x.getLsbD 10 = s.errNoinit ∧ x.getLsbD 11 = s.errNocal ∧
    (x.extractLsb' 16 5).toNat = s.fifo.length ∧
    x.extractLsb' 5 3 = 0#3 ∧ x.extractLsb' 12 4 = 0#4 ∧ x.extractLsb' 21 11 = 0#11 ∧
    ∀ v, ∃ t, performMove (hostWrite .status v) s = .next t ∧ t.engine = s.engine ∧ t.fifo = s.fifo ∧
      t.maskValid = s.maskValid

/-- 10_state.md R30: a write of STATUS clears the sticky bits written as 1 and does nothing else; but for reset, nothing else
clears one; one is set only with its EvError logged; and where the engine sets one in the cycle of its clear, the set wins. -/
def Obligations.StickyBitsClearOnlyByAStatusWriteOrReset : Prop :=
  (∀ (s : State) (w : Word), performMove (hostWrite .status w) s = .next
    { s with
      errOvf := if w.getLsbD 8 then false else s.errOvf
      errCmd := if w.getLsbD 9 then false else s.errCmd
      errNoinit := if w.getLsbD 10 then false else s.errNoinit
      errNocal := if w.getLsbD 11 then false else s.errNocal }) ∧
  (∀ (m : Move) (s t : State) (kind : ErrorKind), performMove m s = .next t → m ≠ .reset →
    (s.sticky kind = true → t.sticky kind = false → ∃ w : Word, w.getLsbD kind.code = true ∧
      (m = hostWrite .status w ∨ m = .clearWithEngine w)) ∧
    (s.sticky kind = false → t.sticky kind = true → ∃ es w, t.log = s.log ++ es ∧ LogEvent.error kind w ∈ es)) ∧
  (∀ (s t u : State) (kind : ErrorKind) (w v : Word) (es : List LogEvent), performMove .engine s = .next t →
    t.log = s.log ++ es → LogEvent.error kind v ∈ es → performMove (.clearWithEngine w) s = .next u → u.sticky kind = true)

/-- 10_state.md R31: a write of CMD appends the word as it is, or with a full FIFO drops it and sets ERR_OVF; a read of CMD
returns 0. -/
def Obligations.PushAppendsOrSetsErrOvf : Prop :=
  ∀ (s : State) (w : Word),
    (s.fifo.length < Config.fifoDepth → performMove (hostWrite .cmd w) s = .next { s with fifo := s.fifo ++ [w] }) ∧
    (Config.fifoDepth ≤ s.fifo.length →
      performMove (hostWrite .cmd w) s = .next { s with errOvf := true, log := s.log ++ [.error .ovf w] }) ∧
    performMove (hostRead .cmd) s = .next { s with rdata := 0#32 }

/-- 20_memory.md R68, 60_exceptions.md R208: in one clock cycle a pop comes before a push, so a push to a full FIFO is accepted,
and the set of a sticky bit wins over its clear. -/
def Obligations.SameCyclePopFirstAndSetWins : Prop :=
  (∀ (s : State) (w v : Word) (queued : List Word), HeadReady s w queued → s.fifo.length = Config.fifoDepth →
    ∃ t, performMove (.pushWithEngine v) s = .next t ∧ t.fifo = queued ++ [v] ∧ t.errOvf = s.errOvf) ∧
  (∀ (s : State) (w clear : Word) (queued : List Word) (why : Illegal), HeadReady s w queued → decode w = .illegal why →
    ∃ t, performMove (.clearWithEngine clear) s = .next t ∧ t.errCmd = true)

/-- 10_state.md R41: TIME_LO returns the low half and captures the high one; TIME_HI returns the capture and does nothing; writes
of both are ignored; whatever happens between the two reads but a reset or another TIME_LO read, the pair is the count at the
first. -/
def Obligations.TheTimePairIsTheCountAtTheFirstRead : Prop :=
  (∀ s : State, performMove (hostRead .timeLo) s =
      .next { s with rdata := s.time.extractLsb' 0 32, timeHiShadow := s.time.extractLsb' 32 32 } ∧
    performMove (hostRead .timeHi) s = .next { s with rdata := s.timeHiShadow } ∧
    ∀ v, performMove (hostWrite .timeLo v) s = .next s ∧ performMove (hostWrite .timeHi v) s = .next s) ∧
  State.reset.timeHiShadow = 0#32 ∧
  (∀ (s lo mid : State) (ms : List Move), performMove (hostRead .timeLo) s = .next lo →
    Move.reset ∉ ms → hostRead .timeLo ∉ ms → performMoves ms lo = .next mid →
    ∃ hi, performMove (hostRead .timeHi) mid = .next hi ∧ hi.rdata ++ lo.rdata = s.time)

/-! ## The whole machine -/

/-- 10_state.md R42, 60_exceptions.md R220: a tick adds one modulo 2^64 and changes nothing else; no other move but reset changes
TIME, which resets to 0. -/
def Obligations.OnlyTicksAdvanceTime : Prop :=
  (∀ s : State, ∃ n : Ticks, n.toNat = (s.time.toNat + 1) % 2 ^ 64 ∧ performMove .tick s = .next { s with time := n }) ∧
  (∀ (m : Move) (s t : State), performMove m s = .next t → m ≠ .tick → m ≠ .reset → t.time = s.time) ∧
  State.reset.time = 0#64

/-- 10_state.md R32, R34, R35: but for reset, the masks and MASK_VALID change only in a MaskCapture and SCALE only in a SetScale,
and MASK_VALID is never cleared. -/
def Obligations.MasksAndScaleChangeOnlyInTheirMicroOps : Prop :=
  ∀ (m : Move) (s t : State), performMove m s = .next t → m ≠ .reset →
    ((∀ pin rest snap, s.engine ≠ .exec (.maskCapture pin :: rest) snap) →
      t.maskOn = s.maskOn ∧ t.maskOff = s.maskOff ∧ t.maskValid = s.maskValid) ∧
    ((∀ v rest snap, s.engine ≠ .exec (.setScale v :: rest) snap) → t.scale = s.scale) ∧
    (s.maskValid = true → t.maskValid = true)

/-- 10_state.md R46, 20_memory.md R73: the block writes GPIO_OUT only in a Drive; else only the platform does. -/
def Obligations.GpioOutChangesOnlyInADriveOrFromOutside : Prop :=
  ∀ (m : Move) (s t : State), performMove m s = .next t → t.gpioOut ≠ s.gpioOut →
    (∃ v rest snap, m.isTurn = true ∧ s.engine = .exec (.drive v :: rest) snap ∧ t.gpioOut = v) ∨ (∃ v, m = .gpioWrite v) ∨ m = .gpioReset

/-- 10_state.md R33, 70_reset_and_hazards.md R251: while no one else writes GPIO_OUT, the command in progress leaves every other
pin as it was captured. -/
def Obligations.TogglingNeverDisturbsOtherPins : Prop :=
  ∀ (m : Move) (s t : State) (rem : List MicroOp) (snap : Snapshot) (pin : BitVec 5), Inv s → isInner m = true →
    s.engine = .exec rem snap → PinMasks snap.maskOn snap.maskOff pin →
    (∀ k, k < 32 → k ≠ pin.toNat → s.gpioOut.getLsbD k = snap.maskOff.getLsbD k) → performMove m s = .next t →
    ∀ k, k < 32 → k ≠ pin.toNat → t.gpioOut.getLsbD k = s.gpioOut.getLsbD k

/-- 10_state.md R43, 20_memory.md R72: a move leaves the FIFO as it is, takes its head, appends a word, does both, or empties it:
no queued word is ever modified. -/
def Obligations.QueuedWordsAreNeverModified : Prop :=
  ∀ (m : Move) (s t : State), performMove m s = .next t →
    t.fifo = [] ∨ ∃ pushed : List Word, pushed.length ≤ 1 ∧ (t.fifo = s.fifo ++ pushed ∨ t.fifo = s.fifo.tail ++ pushed)

/-- 10_state.md R45, R72: a host access never changes the command in progress; a start takes the configuration of that instant;
and what a command expands to depends on its word and the snapshot only. -/
def Obligations.ConfigurationIsReadAtTheStartOnly : Prop :=
  (∀ (a : Access) (s t : State), performMove (.host a) s = .next t → t.engine = s.engine) ∧
  (∀ (i : Instr) (s t : State) (rem : List MicroOp) (snap : Snapshot), exec i s = .next t → t.engine = .exec rem snap →
    snap = s.snapshot) ∧
  (∀ (i : Instr) (s u t v : State), s.snapshot = u.snapshot → s.maskValid = u.maskValid →
    exec i s = .next t → exec i u = .next v → t.engine = v.engine)

/-- 10_state.md R26: EN gates only starts: with EN = 0 an Idle engine holds, a command in progress takes the same steps whatever EN
is, and a push is accepted whatever EN is. -/
def Obligations.EnableGatesOnlyTheStart : Prop :=
  (∀ s : State, s.engine = .idle → s.ctrlEn = false → performMove .engine s = .next s) ∧
  (∀ (s t : State) (en : Bool), s.engine ≠ .idle → performMove .engine s = .next t →
    performMove .engine { s with ctrlEn := en } = .next { t with ctrlEn := en }) ∧
  (∀ (s : State) (w : Word) (en : Bool), s.fifo.length < Config.fifoDepth →
    performMove (hostWrite .cmd w) { s with ctrlEn := en } = .next { s with ctrlEn := en, fifo := s.fifo ++ [w] })

/-- 70_reset_and_hazards.md R240, R241: a reset gives every state element of the block the spec's value, from any state; GPIO_OUT
keeps its value, and takes GPIO_OUT_RESET only when the platform resets the GPIO peripheral. -/
def Obligations.ResetGivesEveryElementItsValue : Prop :=
  ∀ s : State, (∃ t, performMove .reset s = .next t ∧
    t.ctrlEn = false ∧ t.errOvf = false ∧ t.errCmd = false ∧ t.errNoinit = false ∧ t.errNocal = false ∧
    t.maskValid = false ∧ t.maskOn = 0#32 ∧ t.maskOff = 0#32 ∧ t.scale = 255#8 ∧ t.calDiv = 0#16 ∧
    t.t1h = 700#16 ∧ t.t1l = 600#16 ∧ t.t0h = 400#16 ∧ t.t0l = 900#16 ∧
    t.ov1h = 70#16 ∧ t.ov1l = 150#16 ∧ t.ov0h = 100#16 ∧ t.ov0l = 100#16 ∧
    t.resNs = 7000#32 ∧ t.stripLen = 60#16 ∧ t.time = 0#64 ∧ t.timeHiShadow = 0#32 ∧
    t.fifo = [] ∧ t.engine = .idle ∧ t.log = [] ∧ t.gpioOut = s.gpioOut) ∧
  performMove .gpioReset s = .next { s with gpioOut := Config.gpioOutReset } ∧
  State.reset.gpioOut = Config.gpioOutReset

/-- The invariant of the machine holds right after reset (10_state.md R33, R34, R43). -/
def Obligations.ResetMeetsTheInvariant : Prop := Inv State.reset

/-- 10_state.md R33, R34, R43, 40_engine.md R111: every step of the whole machine, whichever agent's, keeps the invariant. -/
def Obligations.EveryStepKeepsTheInvariant : Prop :=
  ∀ s t : State, Inv s → step s = .next t → Inv t

/-- 60_exceptions.md R201, R209: in a good state the block never stops: no step is refused, and a step faults only on a host access
that is a bus error or misses the window. -/
def Obligations.OnlyAHostAccessCanFault : Prop :=
  ∀ (m : Move) (s : State), Inv s → Completes (performMove m s) ∨
    ∃ a, m = .host a ∧ (performMove m s = .fault .busError ∨ performMove m s = .fault .outsideWindow)

/-- Log entry 1 (DESIGN CHOICE), for 20_memory.md R68: running the machine for as many steps as its agenda has moves performs them
in their order. -/
def Obligations.TheAgendaIsPerformedInItsOrder : Prop :=
  ∀ (s : State) (ms : List Move), s.agenda = ms →
    Host.Core.run Sys2Proof.core ms.length s = performMoves ms { s with agenda := [] }

/-- 40_engine.md R115 (the spec's own derivation), R100: whatever ticks, host accesses and words queued behind it, a command that
runs to its finish makes the waveform of its micro-operations, up to the times of its tick holds, and each hold lasted its
ticks (R113). -/
def Obligations.TheWaveformIsFixedWhateverTheInterleaving : Prop :=
  ∀ (s t : State) (rem : List MicroOp) (snap : Snapshot) (ms : List Move), s.engine = .exec rem snap →
    Move.reset ∉ ms → FinishesBy ms s t → ∃ es, t.log = s.log ++ es ∧ untimed (waveform es) = waveOf rem ∧
      ∀ start ticks finish, LogEvent.tickHold start ticks finish ∈ es →
        ticks.toNat ≤ (finish.toNat + 2 ^ 64 - start.toNat) % 2 ^ 64

/-- 40_engine.md R115, 60_exceptions.md R220: from every good state, some interleaving of engine steps and ticks finishes the
command in progress, and GPIO_OUT then holds what it last drove, which is MASK_OFF if it drove anything. -/
def Obligations.EveryCommandInProgressCanFinish : Prop :=
  ∀ (s : State) (rem : List MicroOp) (snap : Snapshot), Inv s → s.engine = .exec rem snap → ∃ ms t,
    (∀ m ∈ ms, isInner m = true) ∧ performMoves ms s = .next t ∧ t.engine = .idle ∧
    (t.gpioOut = snap.maskOff ∨ (lastDrive rem = none ∧ t.gpioOut = s.gpioOut))

/-- 70_reset_and_hazards.md R255 (the spec's own derivation): a line-driving command that has run to its finish, whatever the host
did meanwhile, leaves GPIO_OUT at MASK_OFF, unless others wrote it; only a FILL with SHOW = 0 or a FILL_SCALED of an empty strip
drives nothing. -/
def Obligations.LineDrivingCommandsEndLow : Prop :=
  ∀ (i : Instr) (s t u : State) (ms : List Move), isDriving i = true → Startable i s → exec i s = .next t →
    (∀ m ∈ ms, disturbsTheLine m = false) → FinishesBy ms t u →
    u.gpioOut = s.maskOff ∨
      (s.stripLen = 0#16 ∧ ((∃ r g b, i = .fill false r g b) ∨ ∃ r g b, i = .fillScaled r g b) ∧ u.gpioOut = s.gpioOut)

/-! ## The timing annex -/

/-- 70_reset_and_hazards.md R260 (the spec's own derivation): the high and the low time of a bit inside a command, from its drives. -/
def Obligations.BitPhasesLastADriveAndTheirIterations : Prop :=
  ∀ (p : StepTimes) (s : State) (b : Bool) (rest : List MicroOp) (snap : Snapshot),
    s.engine = .exec (bitU snap b ++ rest) snap → ∃ mid t,
      runEngine p (1 + highIterations snap b) s = some (p.driveNs + highIterations snap b * p.iterNs, mid) ∧
      mid.gpioOut = snap.maskOn ∧
      runEngine p (1 + lowIterations snap b) mid = some (p.driveNs + lowIterations snap b * p.iterNs, t) ∧
      t.gpioOut = snap.maskOff ∧ t.engine = .exec rest snap

/-- 70_reset_and_hazards.md R261: with the next line-driving command queued, the low time of a command's last bit grows by the
finish and the start step, and by two more for every NOP in between. -/
def Obligations.ACommandBoundaryLengthensTheLowPhase : Prop :=
  ∀ (p : StepTimes) (s : State) (iters nops : Nat) (snap : Snapshot) (i : Instr) (queued : List Word),
    s.engine = .exec [.drive snap.maskOff, .spin iters] snap → 1 ≤ iters → s.ctrlEn = true →
    s.fifo = List.replicate nops 0x00000000#32 ++ encode i :: queued → isTimed i = true → s.maskValid = true →
    s.calDiv ≠ 0#16 → s.stripLen ≠ 0#16 → ∃ t rest,
      runEngine p (1 + iters + 1 + 2 * nops + 1) s =
        some (p.driveNs + iters * p.iterNs + 2 * p.ctrlNs + nops * (2 * p.ctrlNs), t) ∧
      t.gpioOut = snap.maskOff ∧ t.engine = .exec (.drive s.maskOn :: rest) s.snapshot

/-- 70_reset_and_hazards.md R262 (the spec's own derivation): with CAL_DIV = ITER_NS_ACT and the correction DRIVE_NS_ACT, a phase
long enough for one iteration falls short of its request by less than one iteration. -/
def Obligations.ACalibratedPhaseFallsShortByLessThanOneIteration : Prop :=
  ∀ (p : StepTimes) (requested correction calDiv : Half), calDiv ≠ 0#16 → p.iterNs = calDiv.toNat →
    p.driveNs = correction.toNat → correction.toNat + calDiv.toNat ≤ requested.toNat →
    phaseNs p (iterations requested correction calDiv) = calibratedPhaseNs p requested.toNat ∧
    phaseNs p (iterations requested correction calDiv) ≤ requested.toNat ∧
    requested.toNat < phaseNs p (iterations requested correction calDiv) + p.iterNs

/-! ## Fairness -/

/-- 40_engine.md R115, 60_exceptions.md R220: the machine performs the moves of its schedule, one after another, and every schedule
has engine turns and ticks without end. That it is fair is the model's construction (log entry 2, DESIGN CHOICE). -/
def Obligations.TheMachineTakesItsMovesFromAFairSchedule : Prop :=
  (∀ (s t : State) (n : Nat), Host.Core.run Sys2Proof.core n s = .next t → ∃ later round,
    step t = performMove (scheduled n s.agenda s.freeRounds) { t with agenda := later, freeRounds := round }) ∧
  (∀ (agenda : List Move) (round : Nat), TicksForever (fun n => scheduled n agenda round) ∧
    ∀ n, ∃ k, n ≤ k ∧ (scheduled k agenda round).isTurn = true)

/-- 40_engine.md R115 ("so every TickHold ends"): in every weakly fair run in which no hold outlasts the counter, every TickHold
ends, in an engine turn after its ticks unless a reset abandons it, and every command comes to its finish. -/
def Obligations.InEveryFairRunHoldsEndAndCommandsFinish : Prop :=
  ∀ (f : Nat → Move) (r : Nat → State), Runs f r → WeaklyFair f r → NoHoldWraps f r →
    (∀ n start t rest snap, (r n).engine = .exec (.tickHold start t :: rest) snap → ∃ k, n ≤ k ∧
      (r k).engine = .exec (.tickHold start t :: rest) snap ∧
      (f k = .reset ∨ ((f k).isTurn = true ∧ elapsedAtLeast (r k).time start t = true ∧ (r (k + 1)).engine = .exec rest snap))) ∧
    (∀ n, ∃ k, n ≤ k ∧ (r k).engine = .idle)
end

