-- ==== Sys2Proof/Laws/Decode.lean ====
section
/-! SUPPORT. The encoder as numbers, and a word's fields as quotients and remainders: what a proof about the encoding needs to be
linear arithmetic. -/

namespace Sys2Proof

theorem append_toNat {m n : Nat} (hi : BitVec m) (lo : BitVec n) : (hi ++ lo).toNat = hi.toNat * 2 ^ n + lo.toNat := by
  rw [BitVec.toNat_append, Nat.shiftLeft_eq, Nat.mul_comm, Nat.two_pow_add_eq_or_of_lt lo.isLt]

theorem extract_toNat {n : Nat} (w : BitVec n) (lo len : Nat) : (w.extractLsb' lo len).toNat = w.toNat / 2 ^ lo % 2 ^ len := by
  rw [BitVec.extractLsb'_toNat, Nat.shiftRight_eq_div_pow]

theorem getLsbD_eq_div {n : Nat} (w : BitVec n) (k : Nat) : w.getLsbD k = decide (w.toNat / 2 ^ k % 2 = 1) := by
  rw [← BitVec.testBit_toNat, Nat.testBit_eq_decide_div_mod_eq]

/-- The word of a command as the sum of its shifted fields (30_encoding.md R86). -/
def encodeNat : Instr → Nat
  | .nop => 0
  | .maskinit pin => 0x10000000 + pin.toNat
  | .sendBit bit => 0x20000000 + bit.toNat
  | .sendByte byte => 0x30000000 + byte.toNat
  | .sendPixel r g b => 0x40000000 + r.toNat * 2 ^ 16 + g.toNat * 2 ^ 8 + b.toNat
  | .setScale scale => 0x50000000 + scale.toNat
  | .sendPixelScaled r g b => 0x60000000 + r.toNat * 2 ^ 16 + g.toNat * 2 ^ 8 + b.toNat
  | .latch => 0x70000000
  | .fill shown r g b => 0x80000000 + shown.toNat * 2 ^ 24 + r.toNat * 2 ^ 16 + g.toNat * 2 ^ 8 + b.toNat
  | .fillScaled r g b => 0x90000000 + r.toNat * 2 ^ 16 + g.toNat * 2 ^ 8 + b.toNat
  | .delayTicks t => 0xA0000000 + t.toNat
  | .waitIters n => 0xB0000000 + n.toNat

theorem encode_toNat (i : Instr) : (encode i).toNat = encodeNat i := by
  cases i <;> simp only [encode, encodeNat, append_toNat, BitVec.toNat_ofNat, BitVec.toNat_ofBool] <;> omega

/-- A word whose reserved bits are 0 decodes to its command, any other is illegal. -/
theorem ifZero_legal_iff {n : Nat} (reserved : BitVec n) (i j : Instr) :
    Decoded.ifZero reserved i = .legal j ↔ reserved = 0#n ∧ i = j := by
  unfold Decoded.ifZero
  split <;> simp_all

end Sys2Proof
end

