-- ==== Sys2Proof/Laws/State.lean ====
section
/-! SUPPORT. What each shared update of State leaves in each field, true by unfolding, so that no proof unfolds an update. -/

namespace Sys2Proof.Machine

variable (s : State)

@[simp] theorem record_ctrlEn (e : LogEvent) : (record e s).ctrlEn = s.ctrlEn := rfl
@[simp] theorem record_errOvf (e : LogEvent) : (record e s).errOvf = s.errOvf := rfl
@[simp] theorem record_errCmd (e : LogEvent) : (record e s).errCmd = s.errCmd := rfl
@[simp] theorem record_errNoinit (e : LogEvent) : (record e s).errNoinit = s.errNoinit := rfl
@[simp] theorem record_errNocal (e : LogEvent) : (record e s).errNocal = s.errNocal := rfl
@[simp] theorem record_maskValid (e : LogEvent) : (record e s).maskValid = s.maskValid := rfl
@[simp] theorem record_maskOn (e : LogEvent) : (record e s).maskOn = s.maskOn := rfl
@[simp] theorem record_maskOff (e : LogEvent) : (record e s).maskOff = s.maskOff := rfl
@[simp] theorem record_scale (e : LogEvent) : (record e s).scale = s.scale := rfl
@[simp] theorem record_calDiv (e : LogEvent) : (record e s).calDiv = s.calDiv := rfl
@[simp] theorem record_t1h (e : LogEvent) : (record e s).t1h = s.t1h := rfl
@[simp] theorem record_t1l (e : LogEvent) : (record e s).t1l = s.t1l := rfl
@[simp] theorem record_t0h (e : LogEvent) : (record e s).t0h = s.t0h := rfl
@[simp] theorem record_t0l (e : LogEvent) : (record e s).t0l = s.t0l := rfl
@[simp] theorem record_ov1h (e : LogEvent) : (record e s).ov1h = s.ov1h := rfl
@[simp] theorem record_ov1l (e : LogEvent) : (record e s).ov1l = s.ov1l := rfl
@[simp] theorem record_ov0h (e : LogEvent) : (record e s).ov0h = s.ov0h := rfl
@[simp] theorem record_ov0l (e : LogEvent) : (record e s).ov0l = s.ov0l := rfl
@[simp] theorem record_resNs (e : LogEvent) : (record e s).resNs = s.resNs := rfl
@[simp] theorem record_stripLen (e : LogEvent) : (record e s).stripLen = s.stripLen := rfl
@[simp] theorem record_time (e : LogEvent) : (record e s).time = s.time := rfl
@[simp] theorem record_timeHiShadow (e : LogEvent) : (record e s).timeHiShadow = s.timeHiShadow := rfl
@[simp] theorem record_fifo (e : LogEvent) : (record e s).fifo = s.fifo := rfl
@[simp] theorem record_engine (e : LogEvent) : (record e s).engine = s.engine := rfl
@[simp] theorem record_gpioOut (e : LogEvent) : (record e s).gpioOut = s.gpioOut := rfl
@[simp] theorem record_log (e : LogEvent) : (record e s).log = s.log ++ [e] := rfl
@[simp] theorem record_rdata (e : LogEvent) : (record e s).rdata = s.rdata := rfl
@[simp] theorem record_agenda (e : LogEvent) : (record e s).agenda = s.agenda := rfl
@[simp] theorem record_freeRounds (e : LogEvent) : (record e s).freeRounds = s.freeRounds := rfl
@[simp] theorem record_snapshot (e : LogEvent) : (record e s).snapshot = s.snapshot := rfl

@[simp] theorem setEngine_ctrlEn (e : Engine) : (setEngine e s).ctrlEn = s.ctrlEn := rfl
@[simp] theorem setEngine_errOvf (e : Engine) : (setEngine e s).errOvf = s.errOvf := rfl
@[simp] theorem setEngine_errCmd (e : Engine) : (setEngine e s).errCmd = s.errCmd := rfl
@[simp] theorem setEngine_errNoinit (e : Engine) : (setEngine e s).errNoinit = s.errNoinit := rfl
@[simp] theorem setEngine_errNocal (e : Engine) : (setEngine e s).errNocal = s.errNocal := rfl
@[simp] theorem setEngine_maskValid (e : Engine) : (setEngine e s).maskValid = s.maskValid := rfl
@[simp] theorem setEngine_maskOn (e : Engine) : (setEngine e s).maskOn = s.maskOn := rfl
@[simp] theorem setEngine_maskOff (e : Engine) : (setEngine e s).maskOff = s.maskOff := rfl
@[simp] theorem setEngine_scale (e : Engine) : (setEngine e s).scale = s.scale := rfl
@[simp] theorem setEngine_calDiv (e : Engine) : (setEngine e s).calDiv = s.calDiv := rfl
@[simp] theorem setEngine_t1h (e : Engine) : (setEngine e s).t1h = s.t1h := rfl
@[simp] theorem setEngine_t1l (e : Engine) : (setEngine e s).t1l = s.t1l := rfl
@[simp] theorem setEngine_t0h (e : Engine) : (setEngine e s).t0h = s.t0h := rfl
@[simp] theorem setEngine_t0l (e : Engine) : (setEngine e s).t0l = s.t0l := rfl
@[simp] theorem setEngine_ov1h (e : Engine) : (setEngine e s).ov1h = s.ov1h := rfl
@[simp] theorem setEngine_ov1l (e : Engine) : (setEngine e s).ov1l = s.ov1l := rfl
@[simp] theorem setEngine_ov0h (e : Engine) : (setEngine e s).ov0h = s.ov0h := rfl
@[simp] theorem setEngine_ov0l (e : Engine) : (setEngine e s).ov0l = s.ov0l := rfl
@[simp] theorem setEngine_resNs (e : Engine) : (setEngine e s).resNs = s.resNs := rfl
@[simp] theorem setEngine_stripLen (e : Engine) : (setEngine e s).stripLen = s.stripLen := rfl
@[simp] theorem setEngine_time (e : Engine) : (setEngine e s).time = s.time := rfl
@[simp] theorem setEngine_timeHiShadow (e : Engine) : (setEngine e s).timeHiShadow = s.timeHiShadow := rfl
@[simp] theorem setEngine_fifo (e : Engine) : (setEngine e s).fifo = s.fifo := rfl
@[simp] theorem setEngine_engine (e : Engine) : (setEngine e s).engine = e := rfl
@[simp] theorem setEngine_gpioOut (e : Engine) : (setEngine e s).gpioOut = s.gpioOut := rfl
@[simp] theorem setEngine_log (e : Engine) : (setEngine e s).log = s.log := rfl
@[simp] theorem setEngine_rdata (e : Engine) : (setEngine e s).rdata = s.rdata := rfl
@[simp] theorem setEngine_agenda (e : Engine) : (setEngine e s).agenda = s.agenda := rfl
@[simp] theorem setEngine_freeRounds (e : Engine) : (setEngine e s).freeRounds = s.freeRounds := rfl
@[simp] theorem setEngine_snapshot (e : Engine) : (setEngine e s).snapshot = s.snapshot := rfl

@[simp] theorem gpioWrite_ctrlEn (v : Word) : (gpioWrite v s).ctrlEn = s.ctrlEn := rfl
@[simp] theorem gpioWrite_errOvf (v : Word) : (gpioWrite v s).errOvf = s.errOvf := rfl
@[simp] theorem gpioWrite_errCmd (v : Word) : (gpioWrite v s).errCmd = s.errCmd := rfl
@[simp] theorem gpioWrite_errNoinit (v : Word) : (gpioWrite v s).errNoinit = s.errNoinit := rfl
@[simp] theorem gpioWrite_errNocal (v : Word) : (gpioWrite v s).errNocal = s.errNocal := rfl
@[simp] theorem gpioWrite_maskValid (v : Word) : (gpioWrite v s).maskValid = s.maskValid := rfl
@[simp] theorem gpioWrite_maskOn (v : Word) : (gpioWrite v s).maskOn = s.maskOn := rfl
@[simp] theorem gpioWrite_maskOff (v : Word) : (gpioWrite v s).maskOff = s.maskOff := rfl
@[simp] theorem gpioWrite_scale (v : Word) : (gpioWrite v s).scale = s.scale := rfl
@[simp] theorem gpioWrite_calDiv (v : Word) : (gpioWrite v s).calDiv = s.calDiv := rfl
@[simp] theorem gpioWrite_t1h (v : Word) : (gpioWrite v s).t1h = s.t1h := rfl
@[simp] theorem gpioWrite_t1l (v : Word) : (gpioWrite v s).t1l = s.t1l := rfl
@[simp] theorem gpioWrite_t0h (v : Word) : (gpioWrite v s).t0h = s.t0h := rfl
@[simp] theorem gpioWrite_t0l (v : Word) : (gpioWrite v s).t0l = s.t0l := rfl
@[simp] theorem gpioWrite_ov1h (v : Word) : (gpioWrite v s).ov1h = s.ov1h := rfl
@[simp] theorem gpioWrite_ov1l (v : Word) : (gpioWrite v s).ov1l = s.ov1l := rfl
@[simp] theorem gpioWrite_ov0h (v : Word) : (gpioWrite v s).ov0h = s.ov0h := rfl
@[simp] theorem gpioWrite_ov0l (v : Word) : (gpioWrite v s).ov0l = s.ov0l := rfl
@[simp] theorem gpioWrite_resNs (v : Word) : (gpioWrite v s).resNs = s.resNs := rfl
@[simp] theorem gpioWrite_stripLen (v : Word) : (gpioWrite v s).stripLen = s.stripLen := rfl
@[simp] theorem gpioWrite_time (v : Word) : (gpioWrite v s).time = s.time := rfl
@[simp] theorem gpioWrite_timeHiShadow (v : Word) : (gpioWrite v s).timeHiShadow = s.timeHiShadow := rfl
@[simp] theorem gpioWrite_fifo (v : Word) : (gpioWrite v s).fifo = s.fifo := rfl
@[simp] theorem gpioWrite_engine (v : Word) : (gpioWrite v s).engine = s.engine := rfl
@[simp] theorem gpioWrite_gpioOut (v : Word) : (gpioWrite v s).gpioOut = v := rfl
@[simp] theorem gpioWrite_log (v : Word) : (gpioWrite v s).log = s.log := rfl
@[simp] theorem gpioWrite_rdata (v : Word) : (gpioWrite v s).rdata = s.rdata := rfl
@[simp] theorem gpioWrite_agenda (v : Word) : (gpioWrite v s).agenda = s.agenda := rfl
@[simp] theorem gpioWrite_freeRounds (v : Word) : (gpioWrite v s).freeRounds = s.freeRounds := rfl
@[simp] theorem gpioWrite_snapshot (v : Word) : (gpioWrite v s).snapshot = s.snapshot := rfl

@[simp] theorem setSticky_ctrlEn (k : ErrorKind) : (setSticky k s).ctrlEn = s.ctrlEn := rfl
@[simp] theorem setSticky_errOvf (k : ErrorKind) : (setSticky k s).errOvf = (s.errOvf || k == .ovf) := rfl
@[simp] theorem setSticky_errCmd (k : ErrorKind) : (setSticky k s).errCmd = (s.errCmd || k == .cmd) := rfl
@[simp] theorem setSticky_errNoinit (k : ErrorKind) : (setSticky k s).errNoinit = (s.errNoinit || k == .noinit) := rfl
@[simp] theorem setSticky_errNocal (k : ErrorKind) : (setSticky k s).errNocal = (s.errNocal || k == .nocal) := rfl
@[simp] theorem setSticky_maskValid (k : ErrorKind) : (setSticky k s).maskValid = s.maskValid := rfl
@[simp] theorem setSticky_maskOn (k : ErrorKind) : (setSticky k s).maskOn = s.maskOn := rfl
@[simp] theorem setSticky_maskOff (k : ErrorKind) : (setSticky k s).maskOff = s.maskOff := rfl
@[simp] theorem setSticky_scale (k : ErrorKind) : (setSticky k s).scale = s.scale := rfl
@[simp] theorem setSticky_calDiv (k : ErrorKind) : (setSticky k s).calDiv = s.calDiv := rfl
@[simp] theorem setSticky_t1h (k : ErrorKind) : (setSticky k s).t1h = s.t1h := rfl
@[simp] theorem setSticky_t1l (k : ErrorKind) : (setSticky k s).t1l = s.t1l := rfl
@[simp] theorem setSticky_t0h (k : ErrorKind) : (setSticky k s).t0h = s.t0h := rfl
@[simp] theorem setSticky_t0l (k : ErrorKind) : (setSticky k s).t0l = s.t0l := rfl
@[simp] theorem setSticky_ov1h (k : ErrorKind) : (setSticky k s).ov1h = s.ov1h := rfl
@[simp] theorem setSticky_ov1l (k : ErrorKind) : (setSticky k s).ov1l = s.ov1l := rfl
@[simp] theorem setSticky_ov0h (k : ErrorKind) : (setSticky k s).ov0h = s.ov0h := rfl
@[simp] theorem setSticky_ov0l (k : ErrorKind) : (setSticky k s).ov0l = s.ov0l := rfl
@[simp] theorem setSticky_resNs (k : ErrorKind) : (setSticky k s).resNs = s.resNs := rfl
@[simp] theorem setSticky_stripLen (k : ErrorKind) : (setSticky k s).stripLen = s.stripLen := rfl
@[simp] theorem setSticky_time (k : ErrorKind) : (setSticky k s).time = s.time := rfl
@[simp] theorem setSticky_timeHiShadow (k : ErrorKind) : (setSticky k s).timeHiShadow = s.timeHiShadow := rfl
@[simp] theorem setSticky_fifo (k : ErrorKind) : (setSticky k s).fifo = s.fifo := rfl
@[simp] theorem setSticky_engine (k : ErrorKind) : (setSticky k s).engine = s.engine := rfl
@[simp] theorem setSticky_gpioOut (k : ErrorKind) : (setSticky k s).gpioOut = s.gpioOut := rfl
@[simp] theorem setSticky_log (k : ErrorKind) : (setSticky k s).log = s.log := rfl
@[simp] theorem setSticky_rdata (k : ErrorKind) : (setSticky k s).rdata = s.rdata := rfl
@[simp] theorem setSticky_agenda (k : ErrorKind) : (setSticky k s).agenda = s.agenda := rfl
@[simp] theorem setSticky_freeRounds (k : ErrorKind) : (setSticky k s).freeRounds = s.freeRounds := rfl
@[simp] theorem setSticky_snapshot (k : ErrorKind) : (setSticky k s).snapshot = s.snapshot := rfl

@[simp] theorem clearSticky_ctrlEn (w : Word) : (clearSticky w s).ctrlEn = s.ctrlEn := rfl
@[simp] theorem clearSticky_errOvf (w : Word) : (clearSticky w s).errOvf = (s.errOvf && !w.getLsbD 8) := rfl
@[simp] theorem clearSticky_errCmd (w : Word) : (clearSticky w s).errCmd = (s.errCmd && !w.getLsbD 9) := rfl
@[simp] theorem clearSticky_errNoinit (w : Word) : (clearSticky w s).errNoinit = (s.errNoinit && !w.getLsbD 10) := rfl
@[simp] theorem clearSticky_errNocal (w : Word) : (clearSticky w s).errNocal = (s.errNocal && !w.getLsbD 11) := rfl
@[simp] theorem clearSticky_maskValid (w : Word) : (clearSticky w s).maskValid = s.maskValid := rfl
@[simp] theorem clearSticky_maskOn (w : Word) : (clearSticky w s).maskOn = s.maskOn := rfl
@[simp] theorem clearSticky_maskOff (w : Word) : (clearSticky w s).maskOff = s.maskOff := rfl
@[simp] theorem clearSticky_scale (w : Word) : (clearSticky w s).scale = s.scale := rfl
@[simp] theorem clearSticky_calDiv (w : Word) : (clearSticky w s).calDiv = s.calDiv := rfl
@[simp] theorem clearSticky_t1h (w : Word) : (clearSticky w s).t1h = s.t1h := rfl
@[simp] theorem clearSticky_t1l (w : Word) : (clearSticky w s).t1l = s.t1l := rfl
@[simp] theorem clearSticky_t0h (w : Word) : (clearSticky w s).t0h = s.t0h := rfl
@[simp] theorem clearSticky_t0l (w : Word) : (clearSticky w s).t0l = s.t0l := rfl
@[simp] theorem clearSticky_ov1h (w : Word) : (clearSticky w s).ov1h = s.ov1h := rfl
@[simp] theorem clearSticky_ov1l (w : Word) : (clearSticky w s).ov1l = s.ov1l := rfl
@[simp] theorem clearSticky_ov0h (w : Word) : (clearSticky w s).ov0h = s.ov0h := rfl
@[simp] theorem clearSticky_ov0l (w : Word) : (clearSticky w s).ov0l = s.ov0l := rfl
@[simp] theorem clearSticky_resNs (w : Word) : (clearSticky w s).resNs = s.resNs := rfl
@[simp] theorem clearSticky_stripLen (w : Word) : (clearSticky w s).stripLen = s.stripLen := rfl
@[simp] theorem clearSticky_time (w : Word) : (clearSticky w s).time = s.time := rfl
@[simp] theorem clearSticky_timeHiShadow (w : Word) : (clearSticky w s).timeHiShadow = s.timeHiShadow := rfl
@[simp] theorem clearSticky_fifo (w : Word) : (clearSticky w s).fifo = s.fifo := rfl
@[simp] theorem clearSticky_engine (w : Word) : (clearSticky w s).engine = s.engine := rfl
@[simp] theorem clearSticky_gpioOut (w : Word) : (clearSticky w s).gpioOut = s.gpioOut := rfl
@[simp] theorem clearSticky_log (w : Word) : (clearSticky w s).log = s.log := rfl
@[simp] theorem clearSticky_rdata (w : Word) : (clearSticky w s).rdata = s.rdata := rfl
@[simp] theorem clearSticky_agenda (w : Word) : (clearSticky w s).agenda = s.agenda := rfl
@[simp] theorem clearSticky_freeRounds (w : Word) : (clearSticky w s).freeRounds = s.freeRounds := rfl
@[simp] theorem clearSticky_snapshot (w : Word) : (clearSticky w s).snapshot = s.snapshot := rfl

@[simp] theorem tickStep_ctrlEn : (tickStep s).ctrlEn = s.ctrlEn := rfl
@[simp] theorem tickStep_errOvf : (tickStep s).errOvf = s.errOvf := rfl
@[simp] theorem tickStep_errCmd : (tickStep s).errCmd = s.errCmd := rfl
@[simp] theorem tickStep_errNoinit : (tickStep s).errNoinit = s.errNoinit := rfl
@[simp] theorem tickStep_errNocal : (tickStep s).errNocal = s.errNocal := rfl
@[simp] theorem tickStep_maskValid : (tickStep s).maskValid = s.maskValid := rfl
@[simp] theorem tickStep_maskOn : (tickStep s).maskOn = s.maskOn := rfl
@[simp] theorem tickStep_maskOff : (tickStep s).maskOff = s.maskOff := rfl
@[simp] theorem tickStep_scale : (tickStep s).scale = s.scale := rfl
@[simp] theorem tickStep_calDiv : (tickStep s).calDiv = s.calDiv := rfl
@[simp] theorem tickStep_t1h : (tickStep s).t1h = s.t1h := rfl
@[simp] theorem tickStep_t1l : (tickStep s).t1l = s.t1l := rfl
@[simp] theorem tickStep_t0h : (tickStep s).t0h = s.t0h := rfl
@[simp] theorem tickStep_t0l : (tickStep s).t0l = s.t0l := rfl
@[simp] theorem tickStep_ov1h : (tickStep s).ov1h = s.ov1h := rfl
@[simp] theorem tickStep_ov1l : (tickStep s).ov1l = s.ov1l := rfl
@[simp] theorem tickStep_ov0h : (tickStep s).ov0h = s.ov0h := rfl
@[simp] theorem tickStep_ov0l : (tickStep s).ov0l = s.ov0l := rfl
@[simp] theorem tickStep_resNs : (tickStep s).resNs = s.resNs := rfl
@[simp] theorem tickStep_stripLen : (tickStep s).stripLen = s.stripLen := rfl
@[simp] theorem tickStep_time : (tickStep s).time = s.time + 1 := rfl
@[simp] theorem tickStep_timeHiShadow : (tickStep s).timeHiShadow = s.timeHiShadow := rfl
@[simp] theorem tickStep_fifo : (tickStep s).fifo = s.fifo := rfl
@[simp] theorem tickStep_engine : (tickStep s).engine = s.engine := rfl
@[simp] theorem tickStep_gpioOut : (tickStep s).gpioOut = s.gpioOut := rfl
@[simp] theorem tickStep_log : (tickStep s).log = s.log := rfl
@[simp] theorem tickStep_rdata : (tickStep s).rdata = s.rdata := rfl
@[simp] theorem tickStep_agenda : (tickStep s).agenda = s.agenda := rfl
@[simp] theorem tickStep_freeRounds : (tickStep s).freeRounds = s.freeRounds := rfl
@[simp] theorem tickStep_snapshot : (tickStep s).snapshot = s.snapshot := rfl

@[simp] theorem answer_ctrlEn (w : Word) : (answer w s).ctrlEn = s.ctrlEn := rfl
@[simp] theorem answer_errOvf (w : Word) : (answer w s).errOvf = s.errOvf := rfl
@[simp] theorem answer_errCmd (w : Word) : (answer w s).errCmd = s.errCmd := rfl
@[simp] theorem answer_errNoinit (w : Word) : (answer w s).errNoinit = s.errNoinit := rfl
@[simp] theorem answer_errNocal (w : Word) : (answer w s).errNocal = s.errNocal := rfl
@[simp] theorem answer_maskValid (w : Word) : (answer w s).maskValid = s.maskValid := rfl
@[simp] theorem answer_maskOn (w : Word) : (answer w s).maskOn = s.maskOn := rfl
@[simp] theorem answer_maskOff (w : Word) : (answer w s).maskOff = s.maskOff := rfl
@[simp] theorem answer_scale (w : Word) : (answer w s).scale = s.scale := rfl
@[simp] theorem answer_calDiv (w : Word) : (answer w s).calDiv = s.calDiv := rfl
@[simp] theorem answer_t1h (w : Word) : (answer w s).t1h = s.t1h := rfl
@[simp] theorem answer_t1l (w : Word) : (answer w s).t1l = s.t1l := rfl
@[simp] theorem answer_t0h (w : Word) : (answer w s).t0h = s.t0h := rfl
@[simp] theorem answer_t0l (w : Word) : (answer w s).t0l = s.t0l := rfl
@[simp] theorem answer_ov1h (w : Word) : (answer w s).ov1h = s.ov1h := rfl
@[simp] theorem answer_ov1l (w : Word) : (answer w s).ov1l = s.ov1l := rfl
@[simp] theorem answer_ov0h (w : Word) : (answer w s).ov0h = s.ov0h := rfl
@[simp] theorem answer_ov0l (w : Word) : (answer w s).ov0l = s.ov0l := rfl
@[simp] theorem answer_resNs (w : Word) : (answer w s).resNs = s.resNs := rfl
@[simp] theorem answer_stripLen (w : Word) : (answer w s).stripLen = s.stripLen := rfl
@[simp] theorem answer_time (w : Word) : (answer w s).time = s.time := rfl
@[simp] theorem answer_timeHiShadow (w : Word) : (answer w s).timeHiShadow = s.timeHiShadow := rfl
@[simp] theorem answer_fifo (w : Word) : (answer w s).fifo = s.fifo := rfl
@[simp] theorem answer_engine (w : Word) : (answer w s).engine = s.engine := rfl
@[simp] theorem answer_gpioOut (w : Word) : (answer w s).gpioOut = s.gpioOut := rfl
@[simp] theorem answer_log (w : Word) : (answer w s).log = s.log := rfl
@[simp] theorem answer_rdata (w : Word) : (answer w s).rdata = w := rfl
@[simp] theorem answer_agenda (w : Word) : (answer w s).agenda = s.agenda := rfl
@[simp] theorem answer_freeRounds (w : Word) : (answer w s).freeRounds = s.freeRounds := rfl
@[simp] theorem answer_snapshot (w : Word) : (answer w s).snapshot = s.snapshot := rfl

/-- The reset of the block keeps what is outside it. -/
theorem blockReset_gpioOut : (blockReset s).gpioOut = s.gpioOut := rfl
@[simp] theorem blockReset_rdata : (blockReset s).rdata = s.rdata := rfl
@[simp] theorem blockReset_agenda : (blockReset s).agenda = s.agenda := rfl
@[simp] theorem blockReset_freeRounds : (blockReset s).freeRounds = s.freeRounds := rfl

end Sys2Proof.Machine
end

