-- ==== Sys2Proof/Laws/Ops.lean ====
section
/-! SUPPORT. What each shared operation can do, said once: starting a command, the engine's step, a register access, a host
access, a move. -/

namespace Sys2Proof.Machine

/-! ## Sequencing -/

@[simp] theorem thenDo_next (s : State) (f : State → StepResult) : thenDo (.next s) f = f s := rfl

@[simp] theorem thenDo_fault (r : Fault) (f : State → StepResult) : thenDo (.fault r) f = .fault r := rfl

@[simp] theorem thenDo_refused (r : Refusal) (f : State → StepResult) : thenDo (.refused r) f = .refused r := rfl

theorem thenDo_eq_next {o : StepResult} {f : State → StepResult} {t : State} :
    thenDo o f = .next t ↔ ∃ m, o = .next m ∧ f m = .next t := by
  cases o <;> simp [thenDo]

@[simp] theorem performMoves_nil (s : State) : performMoves [] s = .next s := rfl

@[simp] theorem performMoves_cons (m : Move) (ms : List Move) (s : State) :
    performMoves (m :: ms) s = thenDo (performMove m s) (performMoves ms) := rfl

theorem performMoves_append (ms ns : List Move) (s : State) :
    performMoves (ms ++ ns) s = thenDo (performMoves ms s) (performMoves ns) := by
  induction ms generalizing s with
  | nil => rfl
  | cons m ms ih => cases h : performMove m s <;> simp [h, ih]

/-! ## Starting a command -/

/-- `expand(c, snap)`, the table of 40_engine.md R104. -/
def expansion (snap : Snapshot) : Instr → List MicroOp
  | .nop => []
  | .maskinit pin => [.maskCapture pin]
  | .sendBit bit => bitU snap bit
  | .sendByte byte => byteU snap byte
  | .sendPixel r g b => pixelU snap r g b
  | .setScale scale => [.setScale scale]
  | .sendPixelScaled r g b => scaledU snap r g b
  | .latch => latchU Config.tickHz snap
  | .fill shown r g b =>
    copies snap.stripLen.toNat (pixelU snap r g b) ++ if shown then latchU Config.tickHz snap else []
  | .fillScaled r g b => copies snap.stripLen.toNat (scaledU snap r g b)
  | .delayTicks t => [.tickWait (t.setWidth 64)]
  | .waitIters n => [.spin (max 1 n.toNat)]

/-- Which of R103's checks after the first stops a legal command's start, if one does. -/
def startError (s : State) : Instr → Option ErrorKind
  | .nop | .maskinit _ | .setScale _ | .delayTicks _ | .waitIters _ => none
  | .latch => if s.maskValid then none else some .noinit
  | .sendBit _ | .sendByte _ | .sendPixel _ _ _ | .sendPixelScaled _ _ _ | .fill _ _ _ _ | .fillScaled _ _ _ =>
    if s.maskValid then if s.calDiv = 0#16 then some .nocal else none else some .noinit

/-- All `exec` can do: refuse the command with its error, or begin it with its expansion. -/
theorem exec_eq (i : Instr) (s : State) :
    exec i s = .next (match startError s i with
      | some kind => raiseError kind (encode i) s
      | none => beginCommand (encode i) (fun snap => expansion snap i) s) := by
  by_cases hm : s.maskValid = true <;> by_cases hc : s.calDiv = 0#16 <;> cases i <;>
    simp [exec, execNop, execMaskinit, execSendBit, execSendByte, execSendPixel, execSetScale, execSendPixelScaled,
      execLatch, execFill, execFillScaled, execDelayTicks, execWaitIters, startPlain, startDriving, startTimed, startError,
      expansion, hm, hc]

@[simp] theorem beginCommand_engine (w : Word) (f : Snapshot → List MicroOp) (s : State) :
    (beginCommand w f s).engine = .exec (f s.snapshot) s.snapshot := rfl

@[simp] theorem raiseError_engine (k : ErrorKind) (w : Word) (s : State) : (raiseError k w s).engine = .idle := rfl

/-- All the start of a word can do: begin a command or raise an error. -/
theorem startWord_cases (w : Word) (s : State) :
    (∃ kind, startWord w s = .next (raiseError kind w s)) ∨
    ∃ i, decode w = .legal i ∧ (startWord w s = .next (raiseError .noinit (encode i) s) ∨
      startWord w s = .next (raiseError .nocal (encode i) s) ∨
      (startError s i = none ∧ startWord w s = .next (beginCommand (encode i) (fun snap => expansion snap i) s))) := by
  unfold startWord
  cases hd : decode w with
  | illegal why => exact .inl ⟨.cmd, rfl⟩
  | legal i =>
    refine .inr ⟨i, rfl, ?_⟩
    simp only [exec_eq]
    cases he : startError s i with
    | none => exact .inr (.inr ⟨rfl, rfl⟩)
    | some kind =>
      cases i <;> simp only [startError] at he <;> (try split at he) <;> (try split at he) <;>
        simp only [Option.some.injEq, reduceCtorEq] at he <;> subst he <;> simp

/-! ## The engine -/

theorem engineStep_idle {s : State} (h : s.engine = .idle) : engineStep s = stepIdle s := by
  simp [engineStep, h]

theorem engineStep_finish {s : State} {snap : Snapshot} (h : s.engine = .exec [] snap) :
    engineStep s = .next (setEngine .idle s) := by
  simp [engineStep, h]

theorem engineStep_exec {s : State} {u : MicroOp} {rest : List MicroOp} {snap : Snapshot}
    (h : s.engine = .exec (u :: rest) snap) : engineStep s = stepMicroOp u rest snap s := by
  simp [engineStep, h]

/-- All an Idle engine can do: hold, or start the head of the FIFO. -/
theorem stepIdle_cases (s : State) :
    (stepIdle s = .next s ∧ (s.ctrlEn = false ∨ s.fifo = [])) ∨
    ∃ w queued, s.fifo = w :: queued ∧ s.ctrlEn = true ∧ stepIdle s = startWord w { s with fifo := queued } := by
  unfold stepIdle
  cases hf : s.fifo with
  | nil => exact .inl ⟨rfl, .inr rfl⟩
  | cons w queued =>
    cases he : s.ctrlEn with
    | false => exact .inl ⟨by simp, .inl rfl⟩
    | true => exact .inr ⟨w, queued, rfl, rfl, by simp⟩

/-- All an iteration of Spin can do. -/
theorem stepSpin_eq {n : Nat} (hn : 1 ≤ n) (rest : List MicroOp) (snap : Snapshot) (s : State) :
    stepSpin n rest snap s =
      .next (setEngine (if n = 1 then .exec rest snap else .exec (.spin (n - 1) :: rest) snap) (record .iter s)) := by
  match n, hn with
  | 1, _ => rfl
  | k + 2, _ => simp [stepSpin]

/-- What an engine step that completes has done: one constructor per row of 40_engine.md R101, the hold, and the refused start. -/
inductive EngineStepTo (s : State) : State → Prop where
  | hold : EngineStepTo s s
  | refuse (w : Word) (queued : List Word) (kind : ErrorKind) (idle : s.engine = .idle) (enabled : s.ctrlEn = true)
      (head : s.fifo = w :: queued) : EngineStepTo s (raiseError kind w { s with fifo := queued })
  | start (w : Word) (queued : List Word) (i : Instr) (idle : s.engine = .idle) (enabled : s.ctrlEn = true)
      (head : s.fifo = w :: queued) (decoded : decode w = .legal i) (ok : startError s i = none) :
      EngineStepTo s (beginCommand (encode i) (fun snap => expansion snap i) { s with fifo := queued })
  | refuseLegal (w : Word) (queued : List Word) (i : Instr) (kind : ErrorKind) (idle : s.engine = .idle)
      (enabled : s.ctrlEn = true) (head : s.fifo = w :: queued) (decoded : decode w = .legal i)
      (masksOrCal : kind = .noinit ∨ kind = .nocal) :
      EngineStepTo s (raiseError kind (encode i) { s with fifo := queued })
  | drive (v : Word) (rest : List MicroOp) (snap : Snapshot) (head : s.engine = .exec (.drive v :: rest) snap) :
      EngineStepTo s (setEngine (.exec rest snap) (record (.drive v) (gpioWrite v s)))
  | spin (n : Nat) (rest : List MicroOp) (snap : Snapshot) (pos : 1 ≤ n) (head : s.engine = .exec (.spin n :: rest) snap) :
      EngineStepTo s
        (setEngine (if n = 1 then .exec rest snap else .exec (.spin (n - 1) :: rest) snap) (record .iter s))
  | tickWait (t : Ticks) (rest : List MicroOp) (snap : Snapshot) (head : s.engine = .exec (.tickWait t :: rest) snap) :
      EngineStepTo s (setEngine (.exec (.tickHold s.time t :: rest) snap) s)
  | tickHold (begun t : Ticks) (rest : List MicroOp) (snap : Snapshot)
      (head : s.engine = .exec (.tickHold begun t :: rest) snap) (elapsed : elapsedAtLeast s.time begun t = true) :
      EngineStepTo s (setEngine (.exec rest snap) (record (.tickHold begun t s.time) s))
  | setScale (v : Byte) (rest : List MicroOp) (snap : Snapshot) (head : s.engine = .exec (.setScale v :: rest) snap) :
      EngineStepTo s (setEngine (.exec rest snap) (record (.scale v) { s with scale := v }))
  | maskCapture (pin : BitVec 5) (rest : List MicroOp) (snap : Snapshot)
      (head : s.engine = .exec (.maskCapture pin :: rest) snap) :
      EngineStepTo s (setEngine (.exec rest snap) (record (.mask (masksOf s.gpioOut pin).1 (masksOf s.gpioOut pin).2)
        { s with maskOn := (masksOf s.gpioOut pin).1, maskOff := (masksOf s.gpioOut pin).2, maskValid := true }))
  | finish (snap : Snapshot) (head : s.engine = .exec [] snap) : EngineStepTo s (setEngine .idle s)

/-- A start depends on the masks and CAL_DIV, not on the FIFO. -/
theorem startError_fifo (s : State) (queued : List Word) (i : Instr) :
    startError { s with fifo := queued } i = startError s i := by
  cases i <;> rfl

/-- All an engine step can do. -/
theorem engineStep_next {s t : State} (h : engineStep s = .next t) : EngineStepTo s t := by
  cases he : s.engine with
  | idle =>
    rw [engineStep_idle he] at h
    obtain ⟨hs, -⟩ | ⟨w, queued, hf, hen, hs⟩ := stepIdle_cases s
    · rw [hs] at h
      cases h
      exact .hold
    · rw [hs] at h
      obtain ⟨kind, hw⟩ | ⟨i, hd, hw | hw | ⟨hok, hw⟩⟩ := startWord_cases w { s with fifo := queued } <;>
        rw [hw] at h <;> cases h
      · exact .refuse w queued kind he hen hf
      · exact .refuseLegal w queued i .noinit he hen hf hd (.inl rfl)
      · exact .refuseLegal w queued i .nocal he hen hf hd (.inr rfl)
      · exact .start w queued i he hen hf hd (startError_fifo s queued i ▸ hok)
  | exec rem snap =>
    cases rem with
    | nil =>
      rw [engineStep_finish he] at h
      cases h
      exact .finish snap he
    | cons u rest =>
      rw [engineStep_exec he] at h
      cases u with
      | drive v =>
        cases h
        exact .drive v rest snap he
      | spin n =>
        rcases Nat.eq_zero_or_pos n with rfl | hn
        · cases h
        · simp only [stepMicroOp, stepSpin_eq hn] at h
          cases h
          exact .spin n rest snap hn he
      | tickWait t =>
        cases h
        exact .tickWait t rest snap he
      | tickHold begun t =>
        simp only [stepMicroOp, stepTickHold] at h
        split at h <;> cases h
        · rename_i helapsed
          exact .tickHold begun t rest snap he helapsed
        · exact .hold
      | setScale v =>
        cases h
        exact .setScale v rest snap he
      | maskCapture pin =>
        cases h
        exact .maskCapture pin rest snap he

/-! ## STATUS and the masks -/

/-- STATUS as the sum of its bits (10_state.md R28). -/
theorem statusWord_toNat (depth : Nat) (s : State) : (statusWord depth s).toNat =
    s.fifo.length % 32 * 2 ^ 16 + s.errNocal.toNat * 2 ^ 11 + s.errNoinit.toNat * 2 ^ 10 + s.errCmd.toNat * 2 ^ 9 +
    s.errOvf.toNat * 2 ^ 8 + s.done.toNat * 2 ^ 4 + s.maskValid.toNat * 2 ^ 3 + (s.fifoFull depth).toNat * 2 ^ 2 +
    s.fifoEmpty.toNat * 2 + s.busy.toNat := by
  simp only [statusWord, append_toNat, BitVec.toNat_ofNat, BitVec.toNat_ofBool]
  omega

/-- `1 << pin` has one bit. -/
theorem getLsbD_pinBit (pin : BitVec 5) {k : Nat} (hk : k < 32) : (pinBit pin).getLsbD k = (k == pin.toNat) := by
  have all : ∀ (pin : BitVec 5) (k : Fin 32), (pinBit pin).getLsbD k.val = (k.val == pin.toNat) := by decide
  exact all pin ⟨k, hk⟩

/-- FIFO_DEPTH is in 1..31 (00_scope.md R11). -/
theorem fifoDepth_range : 1 ≤ Config.fifoDepth ∧ Config.fifoDepth ≤ 31 := by
  have := Config.fifoDepthLess1.isLt
  unfold Config.fifoDepth
  omega

/-- TICK_HZ is in 1..10^9 (00_scope.md R11). -/
theorem tickHz_range : 1 ≤ Config.tickHz ∧ Config.tickHz ≤ 1000000000 := by
  have := Config.tickHzLess1.isLt
  unfold Config.tickHz
  omega

/-! ## The register window -/

@[simp] theorem regAt_offset (r : Reg) : Reg.at r.offset = some r := by cases r <;> decide

theorem regAt_reserved {off : Nat} (h : 0x4C ≤ off) : Reg.at off = none := by
  refine List.find?_eq_none.mpr fun r _ => ?_
  cases r <;> simp [Reg.offset] <;> omega

theorem offset_of_regAt {off : Nat} {r : Reg} (h : Reg.at off = some r) : off = r.offset := by
  unfold Reg.at at h
  have hr : (r.offset == off) = true := List.find?_some (p := fun r : Reg => r.offset == off) h
  exact (beq_iff_eq.mp hr).symm

theorem offset_lt (r : Reg) : r.offset < 0x100 := by cases r <;> decide

theorem offset_aligned (r : Reg) : r.offset % 4 = 0 := by cases r <;> decide

/-- An aligned word access in the window completes. -/
theorem guardAccess_word {off : Nat} (h : off < 0x100) (ha : off % 4 = 0) (action : Nat → State) :
    guardAccess (Config.base + off) 4 action = .next (action off) := by
  simp [guardAccess, inWindow, wordAccess, h, ha]

/-- All the guard of a host access can answer. -/
theorem guardAccess_cases (addr bytes : Nat) (action : Nat → State) :
    (∃ off, addr = Config.base + off ∧ off < 0x100 ∧ off % 4 = 0 ∧ bytes = 4 ∧
      guardAccess addr bytes action = .next (action off)) ∨
    guardAccess addr bytes action = .fault .busError ∨ guardAccess addr bytes action = .fault .outsideWindow := by
  unfold guardAccess
  split
  · rename_i hw
    simp only [inWindow, Bool.and_eq_true, decide_eq_true_eq] at hw
    split
    · rename_i ha
      simp only [wordAccess, Bool.and_eq_true, beq_iff_eq] at ha
      exact .inl ⟨addr - Config.base, by omega, by omega, ha.2, ha.1, rfl⟩
    · exact .inr (.inl rfl)
  · exact .inr (.inr rfl)

/-- The host's read of a register (30_encoding.md R88). -/
theorem performMove_hostRead (r : Reg) (s : State) :
    performMove (hostRead r) s = .next (answer (readReg Config.fifoDepth s r) (readEffect r s)) := by
  simp only [hostRead, performMove, hostAccess, guardAccess_word (offset_lt r) (offset_aligned r), readOffset, regAt_offset]

/-- The host's write of a register (30_encoding.md R88). -/
theorem performMove_hostWrite (r : Reg) (v : Word) (s : State) :
    performMove (hostWrite r v) s = .next (writeReg Config.fifoDepth r v s) := by
  simp only [hostWrite, performMove, hostAccess, guardAccess_word (offset_lt r) (offset_aligned r), writeOffset, regAt_offset]

/-- All a push can do. -/
theorem pushCmd_cases (depth : Nat) (w : Word) (s : State) :
    (s.fifo.length < depth ∧ pushCmd depth w s = { s with fifo := s.fifo ++ [w] }) ∨
    (depth ≤ s.fifo.length ∧ pushCmd depth w s = record (.error .ovf w) (setSticky .ovf s)) := by
  unfold pushCmd
  split
  · exact .inl ⟨by assumption, rfl⟩
  · exact .inr ⟨by omega, rfl⟩

/-- All a host access that completes can do: read a register or a reserved place, write a register, or nothing. -/
theorem hostAccess_next {a : Access} {s t : State} (h : hostAccess a s = .next t) :
    (∃ r, a = .read (Config.base + r.offset) 4 ∧ t = answer (readReg Config.fifoDepth s r) (readEffect r s)) ∨
    t = answer 0#32 s ∨
    (∃ r v, a = .write (Config.base + r.offset) 4 v ∧ t = writeReg Config.fifoDepth r v s) ∨ t = s := by
  cases a with
  | read addr bytes =>
    obtain ⟨off, rfl, -, -, rfl, hg⟩ | hg | hg :=
      guardAccess_cases addr bytes (fun off => readOffset Config.fifoDepth off s) <;>
      simp only [hostAccess, hg, Host.Outcome.next.injEq, reduceCtorEq] at h
    subst h
    unfold readOffset
    split
    · rename_i r hr
      exact .inl ⟨r, by rw [offset_of_regAt hr], rfl⟩
    · exact .inr (.inl rfl)
  | write addr bytes v =>
    obtain ⟨off, rfl, -, -, rfl, hg⟩ | hg | hg :=
      guardAccess_cases addr bytes (fun off => writeOffset Config.fifoDepth off v s) <;>
      simp only [hostAccess, hg, Host.Outcome.next.injEq, reduceCtorEq] at h
    subst h
    unfold writeOffset
    split
    · rename_i r hr
      exact .inr (.inr (.inl ⟨r, v, by rw [offset_of_regAt hr], rfl⟩))
    · exact .inr (.inr (.inr rfl))

end Sys2Proof.Machine
end

