-- ==== Sys2Proof/Laws/PerInstr.lean ====
section
/-! SUPPORT. Statements about every command as a word, one lemma a constructor. -/

namespace Sys2Proof.Laws.OpField

/-- The operation code of a command (30_encoding.md R82, column OP). -/
def op : Instr → Nat
  | .nop => 0x0
  | .maskinit _ => 0x1
  | .sendBit _ => 0x2
  | .sendByte _ => 0x3
  | .sendPixel _ _ _ => 0x4
  | .setScale _ => 0x5
  | .sendPixelScaled _ _ _ => 0x6
  | .latch => 0x7
  | .fill _ _ _ _ => 0x8
  | .fillScaled _ _ _ => 0x9
  | .delayTicks _ => 0xA
  | .waitIters _ => 0xB

/-- Bits 31:28 of a command's word are its operation code. -/
def Statement (i : Instr) : Prop := (encode i).toNat / 2 ^ 28 = op i

/-- The statement once the word is written as a number. -/
theorem of_encodeNat {i : Instr} (h : encodeNat i / 2 ^ 28 = op i) : Statement i := by
  rw [Statement, encode_toNat, h]

theorem nop : Statement .nop := of_encodeNat rfl

theorem maskinit (pin : BitVec 5) : Statement (.maskinit pin) :=
  of_encodeNat (by have := pin.isLt; simp only [encodeNat, op]; omega)

theorem sendBit (bit : Bool) : Statement (.sendBit bit) :=
  of_encodeNat (by have := bit.toNat_lt; simp only [encodeNat, op]; omega)

theorem sendByte (byte : Byte) : Statement (.sendByte byte) :=
  of_encodeNat (by have := byte.isLt; simp only [encodeNat, op]; omega)

theorem sendPixel (r g b : Byte) : Statement (.sendPixel r g b) :=
  of_encodeNat (by have := r.isLt; have := g.isLt; have := b.isLt; simp only [encodeNat, op]; omega)

theorem setScale (scale : Byte) : Statement (.setScale scale) :=
  of_encodeNat (by have := scale.isLt; simp only [encodeNat, op]; omega)

theorem sendPixelScaled (r g b : Byte) : Statement (.sendPixelScaled r g b) :=
  of_encodeNat (by have := r.isLt; have := g.isLt; have := b.isLt; simp only [encodeNat, op]; omega)

theorem latch : Statement .latch := of_encodeNat rfl

theorem fill (shown : Bool) (r g b : Byte) : Statement (.fill shown r g b) :=
  of_encodeNat (by
    have := shown.toNat_lt; have := r.isLt; have := g.isLt; have := b.isLt; simp only [encodeNat, op]; omega)

theorem fillScaled (r g b : Byte) : Statement (.fillScaled r g b) :=
  of_encodeNat (by have := r.isLt; have := g.isLt; have := b.isLt; simp only [encodeNat, op]; omega)

theorem delayTicks (t : BitVec 28) : Statement (.delayTicks t) :=
  of_encodeNat (by have := t.isLt; simp only [encodeNat, op]; omega)

theorem waitIters (n : BitVec 28) : Statement (.waitIters n) :=
  of_encodeNat (by have := n.isLt; simp only [encodeNat, op]; omega)

end Sys2Proof.Laws.OpField
end

