-- ==== Sys2Proof/Laws/Safety.lean ====
section
/-! SUPPORT. The small lemmas of Sys2Proof/Safety.lean's definitions: waveforms and last drives of joined lists, and of the
expansions of 40_engine.md R106 to R109. -/

namespace Sys2Proof.Safety

open Sys2Proof.Machine

@[simp] theorem waveform_nil : waveform [] = [] := rfl

@[simp] theorem waveform_cons (e : LogEvent) (es : List LogEvent) :
    waveform (e :: es) = if e.inWaveform then e :: waveform es else waveform es := List.filter_cons

@[simp] theorem waveform_append (es fs : List LogEvent) : waveform (es ++ fs) = waveform es ++ waveform fs :=
  List.filter_append es fs

@[simp] theorem untimed_nil : untimed [] = [] := rfl

@[simp] theorem untimed_cons (e : LogEvent) (es : List LogEvent) : untimed (e :: es) = waveEvent e ++ untimed es :=
  List.flatMap_cons

@[simp] theorem untimed_append (es fs : List LogEvent) : untimed (es ++ fs) = untimed es ++ untimed fs :=
  List.flatMap_append

/-- What is fixed of a log is what is fixed of its waveform: the other events leave nothing. -/
@[simp] theorem untimed_waveform (es : List LogEvent) : untimed (waveform es) = untimed es := by
  induction es with
  | nil => rfl
  | cons e es ih => cases e <;> simp [LogEvent.inWaveform, waveEvent, ih]

@[simp] theorem waveOf_nil : waveOf [] = [] := rfl

@[simp] theorem waveOf_cons (u : MicroOp) (us : List MicroOp) : waveOf (u :: us) = waveOfMicroOp u ++ waveOf us :=
  List.flatMap_cons

@[simp] theorem waveOf_append (us vs : List MicroOp) : waveOf (us ++ vs) = waveOf us ++ waveOf vs :=
  List.flatMap_append

/-- The last drive of two lists is the second's, if it drives, else the first's. -/
theorem lastDrive_append (us vs : List MicroOp) : lastDrive (us ++ vs) = (lastDrive vs).or (lastDrive us) := by
  induction us with
  | nil => simp [lastDrive]
  | cons u us ih => cases u <;> simp [lastDrive, ih]

theorem lastDrive_bitU (snap : Snapshot) (b : Bool) : lastDrive (bitU snap b) = some snap.maskOff := rfl

theorem lastDrive_byteU (snap : Snapshot) (x : Byte) : lastDrive (byteU snap x) = some snap.maskOff := by
  simp [byteU, lastDrive_append, lastDrive_bitU]

theorem lastDrive_pixelU (snap : Snapshot) (r g b : Byte) : lastDrive (pixelU snap r g b) = some snap.maskOff := by
  simp [pixelU, lastDrive_append, lastDrive_byteU]

theorem lastDrive_copies (n : Nat) {us : List MicroOp} {v : Word} (h : lastDrive us = some v) :
    lastDrive (copies n us) = if n = 0 then none else some v := by
  induction n with
  | zero => rfl
  | succ n ih =>
    unfold copies at *
    rw [List.replicate_succ, List.flatten_cons, lastDrive_append, ih, h]
    split <;> simp

/-- Over a GPIO value of zero the masks of a pin are masks of that pin (10_state.md R33, 43_control_commands.md R172). -/
theorem pinMasks_zero (pin : BitVec 5) : PinMasks (pinBit pin) 0#32 pin := by
  have all : ∀ pin : BitVec 5, (pinBit pin).getLsbD pin.toNat = true := by decide
  exact ⟨by simp, all pin, by simp⟩

/-- Valid masks of a pin give LINE_PIN (10_state.md R33). -/
theorem linePin_eq {s : State} {pin : BitVec 5} (hv : s.maskValid = true) (h : PinMasks s.maskOn s.maskOff pin) :
    s.linePin = some pin.toNat := by
  have all : ∀ pin : BitVec 5, (List.range 32).find? (fun k => pinBit pin == 1#32 <<< k) = some pin.toNat := by decide
  rw [State.linePin, if_pos hv, h.1, all]

end Sys2Proof.Safety
end

