-- ==== Sys2Proof/Laws/Schedule.lean ====
section
/-! SUPPORT. What the schedule can do: the machine's next move, and the engine turn and the tick of every round. -/

namespace Sys2Proof.Machine

@[simp] theorem EngineTurn.isTurn_move (e : EngineTurn) : e.move.isTurn = true := by cases e <;> rfl

/-- A round as one list: its moves before the engine turn, the turn, the moves between, the tick. -/
theorem freeRound_list (round : Nat) : (freeRound round).1 :: (freeRound round).2 =
    Config.freeBefore round ++ (Config.freeTurn round).move :: (Config.freeBetween round ++ [.tick]) := by
  unfold freeRound
  split <;> rename_i h <;> simp [h]

/-- The move at a place of the agenda. -/
theorem scheduled_agenda {n : Nat} {ms : List Move} {m : Move} (round : Nat) (h : ms[n]? = some m) :
    scheduled n ms round = m := by
  induction n generalizing ms with
  | zero => cases ms <;> simp_all [scheduled]
  | succ n ih => cases ms <;> simp_all [scheduled]

/-- Past the agenda, the schedule goes on with the next round. -/
theorem scheduled_past (n : Nat) (ms : List Move) (round : Nat) :
    scheduled (ms.length + n) ms round = scheduled n [] round := by
  induction ms with
  | nil => simp
  | cons m ms ih => rw [List.length_cons, Nat.succ_add]; exact ih

/-- An empty agenda is as good as one that holds the next round. -/
theorem scheduled_nil (n round : Nat) :
    scheduled n [] round = scheduled n ((freeRound round).1 :: (freeRound round).2) (round + 1) := by
  cases n <;> rfl

end Sys2Proof.Machine
end

