-- ==== Sys2Proof/Tests/Slice0.lean ====
section
/-! SUPPORT. Tests: ill-formed assembly, words and values of 95_test_vectors.md and of the rules' own examples, and one witness
for the hypotheses of every statement that has some. -/

open Sys2Proof Sys2Proof.Machine Sys2Proof.Safety

namespace Sys2Proof.Tests

/-! ## WellFormed: one ill-formed line for each check, refused by the assembler (30_encoding.md R81, R86) -/

theorem test_wellformed_bit : (AsmLine.sendBit 2).wellFormed = false ∧ assemble (.sendBit 2) = none := by decide
theorem test_wellformed_pin : (AsmLine.maskinit 32).wellFormed = false ∧ assemble (.maskinit 32) = none := by decide
theorem test_wellformed_byte : (AsmLine.sendByte 256).wellFormed = false ∧ assemble (.sendByte 256) = none := by decide
theorem test_wellformed_scale : (AsmLine.setScale 256).wellFormed = false ∧ assemble (.setScale 256) = none := by decide
theorem test_wellformed_pixel : (AsmLine.sendPixel 0 300 0).wellFormed = false ∧ assemble (.sendPixel 0 300 0) = none := by
  decide
theorem test_wellformed_scaled : (AsmLine.sendPixelScaled 256 0 0).wellFormed = false := by decide
theorem test_wellformed_fill_show : (AsmLine.fill 0 0 0 2).wellFormed = false ∧ assemble (.fill 0 0 0 2) = none := by decide
theorem test_wellformed_fill_pixel : (AsmLine.fill 0 0 256 1).wellFormed = false := by decide
theorem test_wellformed_fill_scaled : (AsmLine.fillScaled 0 0 256).wellFormed = false := by decide
theorem test_wellformed_ticks : (AsmLine.delayTicks 268435456).wellFormed = false := by decide
theorem test_wellformed_iters : (AsmLine.waitIters 268435456).wellFormed = false := by decide
theorem test_wellformed_clear : (AsmLine.clear 2).wellFormed = false := by decide
theorem test_wellformed_pseudo_scale : (AsmLine.sendPixelScaledBy 0 0 0 256).wellFormed = false ∧
    (AsmLine.fillScaledBy 0 0 0 256).wellFormed = false := by decide

/-! ## Decode: words the spec writes out (95_test_vectors.md 2.3 to 2.6) -/

theorem test_decode_nop : decode 0x00000000#32 = .legal .nop ∧ decode 0x00000001#32 = .illegal .reservedBit := by decide
theorem test_decode_maskinit : decode 0x1000001F#32 = .legal (.maskinit 31#5) ∧ decode 0x10000020#32 = .illegal .reservedBit := by
  decide
theorem test_decode_sendBit : decode 0x20000001#32 = .legal (.sendBit true) ∧ decode 0x20000002#32 = .illegal .reservedBit := by
  decide
theorem test_decode_sendByte : decode 0x300000A5#32 = .legal (.sendByte 0xA5#8) ∧ decode 0x30000100#32 = .illegal .reservedBit := by
  decide
theorem test_decode_sendPixel : decode 0x40123456#32 = .legal (.sendPixel 0x12#8 0x34#8 0x56#8) ∧
    decode 0x41000000#32 = .illegal .reservedBit := by decide
theorem test_decode_setScale : decode 0x50000080#32 = .legal (.setScale 128#8) ∧ decode 0x50000100#32 = .illegal .reservedBit := by
  decide
theorem test_decode_sendPixelScaled : decode 0x60FF0A00#32 = .legal (.sendPixelScaled 255#8 10#8 0#8) ∧
    decode 0x6F000000#32 = .illegal .reservedBit := by decide
theorem test_decode_latch : decode 0x70000000#32 = .legal .latch ∧ decode 0x70000001#32 = .illegal .reservedBit := by decide
theorem test_decode_fill : decode 0x81010203#32 = .legal (.fill true 1#8 2#8 3#8) ∧ decode 0x82000000#32 = .illegal .reservedBit := by
  decide
theorem test_decode_fillScaled : decode 0x900000C8#32 = .legal (.fillScaled 0#8 0#8 200#8) ∧
    decode 0x91000000#32 = .illegal .reservedBit := by decide
theorem test_decode_delayTicks : decode 0xAFFFFFFF#32 = .legal (.delayTicks 0xFFFFFFF#28) := by decide
theorem test_decode_waitIters : decode 0xB0989680#32 = .legal (.waitIters 10000000#28) := by decide
theorem test_decode_reserved_op : decode 0xC0000000#32 = .illegal .reservedOp ∧ decode 0xE0000000#32 = .illegal .reservedOp ∧
    decode 0xFFFFFFFF#32 = .illegal .reservedOp := by decide
theorem test_encode_is_not_decode_only : encode (.fill true 1#8 2#8 3#8) = 0x81010203#32 ∧ encode (.maskinit 19#5) = 0x10000013#32 := by
  decide

/-! ## The assembler (30_encoding.md R86, R87, 95_test_vectors.md P1 to P3) -/

theorem test_asm_pixel : assemble (.sendPixel 0x12 0x34 0x56) = some [0x40123456#32] := by decide
theorem test_asm_fill : assemble (.fill 255 0 0 1) = some [0x81FF0000#32] ∧ assemble (.clear 1) = some [0x81000000#32] := by decide
theorem test_asm_pseudo_scaled : assemble (.fillScaledBy 255 10 0 128) = some [0x50000080#32, 0x90FF0A00#32] := by decide
theorem test_asm_text_hex : readAsmLine "send_byte 0xA5".toList = some (.sendByte 0xA5) := by decide
theorem test_asm_text_fill : readAsmLine "fill 255, 0, 0, 1".toList = some (.fill 255 0 0 1) := by decide
theorem test_asm_text_pseudo : readAsmLine "send_pixel_scaled 255, 0, 0, 128".toList = some (.sendPixelScaledBy 255 0 0 128) := by
  decide
theorem test_asm_text_refused : readAsmLine "fill 255, 0, 0".toList = none ∧ readAsmLine "send_byte 1 2".toList = none := by decide

/-! ## Arithmetic (95_test_vectors.md 2.1, 2.2, 2.4, 2.9) -/

theorem test_iterations_floor : iterations 600 150 7 = 64 ∧ iterations 900 100 3 = 266 := by decide
theorem test_iterations_clamp : iterations 50 70 10 = 1 ∧ iterations 65535 0 1 = 65535 := by decide
theorem test_scale8_floor : scale8 127 128 = 63 ∧ scale8 254 254 = 253 ∧ scale8 200 100 = 78 := by decide
theorem test_scale8_clamp : scale8 10 1 = 1 ∧ scale8 255 0 = 0 ∧ scale8 0 128 = 0 := by decide
theorem test_resTicks : resTicks 32768 7000 = 2 ∧ resTicks 1000000 7000 = 8 ∧ resTicks 10000000 7000 = 71 := by decide
theorem test_resTicks_edges : resTicks 1000000000 7000 = 7001 ∧ resTicks 1 7000 = 2 ∧ resTicks 1000000 0 = 1 := by decide
theorem test_elapsed_wraps : elapsedAtLeast 1 0xFFFFFFFFFFFFFFFF 2 = true ∧ elapsedAtLeast 1 0xFFFFFFFFFFFFFFFF 3 = false ∧
    elapsedAtLeast 5 5 0 = true := by decide
theorem test_calibration : calibratedDivisor 1000000 100000 10000000 = 10 := by decide
theorem test_byteLane : byteLane 0x40123456#32 0 = 0x56#8 ∧ byteLane 0x40123456#32 3 = 0x40#8 := by decide

/-! ## Small states -/

/-- The common start of 95_test_vectors.md: pin 19 over GPIO_OUT = 0, CAL_DIV = 10, EN = 1. -/
def ready : State :=
  { State.reset with ctrlEn := true, maskValid := true, maskOn := 0x00080000#32, calDiv := 10#16, gpioOut := 0x00000000#32 }

/-- `ready` with one word queued. -/
def headed (w : Word) : State := { ready with fifo := [w] }

/-- `ready` in the middle of a command. -/
def busy (rem : List MicroOp) : State := { ready with engine := .exec rem ready.snapshot }

theorem ready_inv : Inv ready :=
  ⟨Nat.zero_le _, ⟨19#5, pinMasks_zero 19#5⟩, trivial⟩

theorem busy_inv : Inv (busy [.drive 0x00080000#32, .spin 63, .drive 0x00000000#32, .spin 45]) := by
  have ok : ∃ pin, PinMasks 0x00080000#32 0x00000000#32 pin := ⟨19#5, pinMasks_zero 19#5⟩
  refine ⟨Nat.zero_le _, ok, ?_, by decide, .inr rfl⟩
  intro u hu
  simp only [List.mem_cons, List.not_mem_nil, or_false] at hu
  rcases hu with rfl | rfl | rfl | rfl
  · exact ⟨.inl rfl, ok⟩
  · exact Nat.le_add_left 1 62
  · exact ⟨.inr rfl, ok⟩
  · exact Nat.le_add_left 1 44

/-! ## Commands: the engine after the start, by the examples of the rules -/

/-- The command in progress after `exec`, if there is one. -/
def remaining (o : StepResult) : Option (List MicroOp) :=
  match o with
  | .next s =>
    match s.engine with
    | .exec rem _ => some rem
    | .idle => none
  | _ => none

/-- The drive log after `exec`. -/
def logOf (o : StepResult) : List LogEvent :=
  match o with
  | .next s => s.log
  | _ => []

theorem test_nop : remaining (exec .nop ready) = some [] ∧ logOf (exec .nop ready) = [.start 0x00000000#32] := by decide
theorem test_maskinit : remaining (exec (.maskinit 19#5) ready) = some [.maskCapture 19#5] := by decide
theorem test_sendBit_one : remaining (exec (.sendBit true) ready) =
    some [.drive 0x00080000#32, .spin 63, .drive 0x00000000#32, .spin 45] := by decide
theorem test_sendBit_zero : remaining (exec (.sendBit false) ready) =
    some [.drive 0x00080000#32, .spin 30, .drive 0x00000000#32, .spin 80] := by decide
theorem test_sendByte_msb_first : (remaining (exec (.sendByte 0xA5#8) ready)).map (fun us =>
    us.filter (fun u => u == .spin 63 || u == .spin 30)) = some
    [.spin 63, .spin 30, .spin 63, .spin 30, .spin 30, .spin 63, .spin 30, .spin 63] := by decide
theorem test_sendPixel_wire_order : remaining (exec (.sendPixel 0x12#8 0x34#8 0x56#8) ready) =
    some (byteU ready.snapshot 0x34#8 ++ byteU ready.snapshot 0x12#8 ++ byteU ready.snapshot 0x56#8) := by decide
theorem test_setScale : remaining (exec (.setScale 128#8) ready) = some [.setScale 128#8] := by decide
theorem test_sendPixelScaled : remaining (exec (.sendPixelScaled 255#8 10#8 0#8) { ready with scale := 128#8 }) =
    some (byteU ready.snapshot 0x05#8 ++ byteU ready.snapshot 0x80#8 ++ byteU ready.snapshot 0x00#8) := by decide
theorem test_latch_needs_masks : logOf (exec .latch { ready with maskValid := false }) = [.error .noinit 0x70000000#32] := by
  decide
theorem test_latch_needs_no_calibration : logOf (exec .latch { ready with calDiv := 0#16 }) = [.start 0x70000000#32] := by decide
theorem test_fill_one : remaining (exec (.fill false 1#8 2#8 3#8) { ready with stripLen := 1#16 }) =
    some (byteU ready.snapshot 2#8 ++ byteU ready.snapshot 1#8 ++ byteU ready.snapshot 3#8) := by decide
theorem test_fill_empty_strip : remaining (exec (.fill false 1#8 2#8 3#8) { ready with stripLen := 0#16 }) = some [] ∧
    (remaining (exec (.fill true 1#8 2#8 3#8) { ready with stripLen := 0#16 })).map (List.take 1) =
      some [.drive 0x00000000#32] := by decide
theorem test_fillScaled : remaining (exec (.fillScaled 0#8 0#8 200#8) { ready with stripLen := 1#16, scale := 64#8 }) =
    some (byteU ready.snapshot 0#8 ++ byteU ready.snapshot 0#8 ++ byteU ready.snapshot 0x32#8) := by decide
theorem test_delayTicks : remaining (exec (.delayTicks 100#28) ready) = some [.tickWait 100#64] := by decide
theorem test_waitIters_clamp : remaining (exec (.waitIters 0#28) ready) = some [.spin 1] := by decide
theorem test_check_order : logOf (exec (.sendBit true) State.reset) = [.error .noinit 0x20000001#32] := by decide
theorem test_no_calibration : logOf (exec (.sendBit true) { ready with calDiv := 0#16 }) = [.error .nocal 0x20000001#32] := by decide

/-! ## Single engine steps -/

theorem test_drive : performMove .engine (busy [.drive 0x00000108#32]) = .next
    { busy [] with gpioOut := 0x00000108#32, log := [.drive 0x00000108#32] } := rfl
theorem test_spin : performMove .engine (busy [.spin 2]) = .next { busy [.spin 1] with log := [.iter] } := rfl
theorem test_maskCapture : performMove .engine { busy [.maskCapture 4#5] with gpioOut := 0x000000F0#32 } = .next
    { busy [] with gpioOut := 0x000000F0#32, maskOn := 0x000000F0#32, maskOff := 0x000000E0#32, log := [.mask 0x000000F0#32 0x000000E0#32] } := by
  rfl
theorem test_illegal_head : performMove .engine (headed 0xC0000000#32) = .next
    { ready with errCmd := true, log := [.error .cmd 0xC0000000#32] } := rfl
theorem test_hold : performMove .engine (busy [.tickHold 0#64 8#64]) = .next (busy [.tickHold 0#64 8#64]) := rfl

/-! ## Observation (40_engine.md R100, 95_test_vectors.md 2.3, P4) -/

theorem test_waveform : waveform [.start 0x70000000#32, .drive 0x00000100#32, .scale 1#8, .tickHold 3#64 8#64 11#64] =
    [.drive 0x00000100#32, .tickHold 3#64 8#64 11#64] := by decide
theorem test_line : ready.linePin = some 19 ∧ ready.dataLine = some false ∧ State.reset.linePin = none ∧
    lineLevels 3 [.start 0x20000001#32, .drive 0x00000108#32, .iter, .drive 0x00000100#32] = [true, false] := by decide

/-! ## Registers (95_test_vectors.md 2.8 to 2.10, P4, P5) -/

theorem test_status_reset : statusWord 16 State.reset = 0x00000012#32 := by decide
theorem test_status_full : statusWord 16 { State.reset with fifo := List.replicate 16 0#32, errOvf := true } = 0x00100104#32 := by
  decide
theorem test_status_clear : statusWord 16 (clearSticky 0x00000400#32
    { ready with errCmd := true, errNoinit := true, errNocal := true }) = 0x00000A1A#32 := by decide
theorem test_read_reset : readReg 16 State.reset .scale = 0x000000FF#32 ∧ readReg 16 State.reset .stripLen = 0x0000003C#32 := by
  decide
theorem test_write_reserved_bits : readReg 16 (writeReg 16 .calDiv 0x00012345#32 ready) .calDiv = 0x00002345#32 := by decide
theorem test_write_ctrl : readReg 16 (writeReg 16 .ctrl 0x00000003#32 (headed 0#32)) .ctrl = 0x00000001#32 ∧
    (writeReg 16 .ctrl 0x00000003#32 (headed 0#32)).fifo = [] := by decide
theorem test_push_overflow : pushCmd 1 0x00000000#32 (headed 0#32) =
    { headed 0#32 with errOvf := true, log := [.error .ovf 0x00000000#32] } := by decide
theorem test_time_pair : (readEffect .timeLo { ready with time := 0x1FFFFFFFF#64 }).timeHiShadow = 0x00000001#32 ∧
    readReg 16 { ready with time := 0x1FFFFFFFF#64 } .timeLo = 0xFFFFFFFF#32 := by decide
theorem test_time_hi_stale : readReg 16 { State.reset with time := 0x500000000#64 } .timeHi = 0x00000000#32 := by decide
theorem test_reserved_offset : Reg.at 0x80 = none ∧ Reg.at 0x48 = some .timeHi := by decide

/-! ## A word placed at the fetch, as the host asks -/

theorem test_tableWord : decodeTableWord 32 0x81FF0000 = some (.fill true 255#8 0#8 0#8) := by decide
theorem test_fetch : step (State.reset.withFetchWord 32 0x10000013) =
    exec (.maskinit 19#5) { State.reset with ctrlEn := true } := rfl

/-! ## Witnesses: states and operands that meet the hypotheses of each statement -/

theorem headed_ready (w : Word) : HeadReady (headed w) w [] := ⟨rfl, rfl, rfl⟩

theorem witness_ALegalWordIsTheEncodingOfItsCommand : decode 0x20000001#32 = .legal (.sendBit true) := by decide

theorem witness_AssemblerBuildsTheWordsOfTheTable_in_range :
    255 < 256 ∧ 1 < 2 ∧ 31 < 32 ∧ 268435455 < 2 ^ 28 := by decide

theorem witness_AssemblerBuildsTheWordsOfTheTable_out_of_range :
    32 ≤ 32 ∧ 256 ≤ 256 ∧ 2 ^ 28 ≤ 268435456 ∧ 2 ≤ 2 ∧ (256 ≤ 0 ∨ 256 ≤ 0 ∨ 256 ≤ 256) := by decide

theorem witness_AStepRunsTheDecodedHeadOfTheFifo : ∃ (s : State) (w : Word) (queued : List Word) (later : List Move) (i : Instr),
    HeadReady s w queued ∧ s.agenda = .engine :: later ∧ decode w = .legal i :=
  ⟨{ headed 0x70000000#32 with agenda := [.engine] }, 0x70000000#32, [], [], .latch, ⟨rfl, rfl, rfl⟩, rfl, by decide⟩

theorem witness_AnIllegalHeadOnlySetsErrCmd : ∃ (s : State) (w : Word) (queued : List Word), HeadReady s w queued ∧
    ∀ row ∈ opcodeMap, row.covers w = false :=
  ⟨headed 0x91000000#32, 0x91000000#32, [], headed_ready _, by decide⟩

theorem witness_DrivingCommandsNeedMasks : ∃ (s : State) (i : Instr), isDriving i = true ∧ s.maskValid = false :=
  ⟨State.reset, .latch, rfl, rfl⟩

theorem witness_TimedCommandsNeedCalibration_timed : ∃ (s : State) (i : Instr), s.maskValid = true ∧ isTimed i = true ∧
    s.calDiv = 0#16 :=
  ⟨{ ready with calDiv := 0#16 }, .sendBit true, rfl, rfl, rfl⟩

theorem witness_TimedCommandsNeedCalibration_untimed : ∃ (s : State) (i : Instr), s.maskValid = true ∧ isTimed i = false :=
  ⟨ready, .latch, rfl, rfl⟩

theorem witness_NopStartsAndFinishes : HeadReady (headed 0x00000000#32) 0x00000000#32 [] := headed_ready _

theorem witness_MaskinitCapturesThePinMasks :
    HeadReady (headed (encode (.maskinit 31#5))) (encode (.maskinit 31#5)) [] := headed_ready _

theorem witness_SetScaleSetsTheScale : HeadReady (headed (encode (.setScale 0#8))) (encode (.setScale 0#8)) [] := headed_ready _

/-- For the statements that SEND_BIT, SEND_BYTE, SEND_PIXEL, SEND_PIXEL_SCALED, LATCH, FILL and FILL_SCALED start. -/
theorem witness_masks_and_calibration : ready.maskValid = true ∧ ready.calDiv ≠ 0#16 := by decide

theorem witness_DelayTicksHoldsForItsTicks_holding : HeadReady (headed (encode (.delayTicks 1#28))) (encode (.delayTicks 1#28)) [] ∧
    0 < 2 ^ 64 ∧ 0 < (1#28).toNat := ⟨headed_ready _, by decide, by decide⟩

theorem witness_DelayTicksHoldsForItsTicks_ending : HeadReady (headed (encode (.delayTicks 0#28))) (encode (.delayTicks 0#28)) [] ∧
    0 < 2 ^ 64 ∧ (0#28).toNat ≤ 0 := ⟨headed_ready _, by decide, by decide⟩

theorem witness_WaitItersSpinsItsIterations : HeadReady (headed (encode (.waitIters 0#28))) (encode (.waitIters 0#28)) [] :=
  headed_ready _

theorem witness_DriveWritesGpioWhole : ∃ (s : State) (v : Word) (rest : List MicroOp) (snap : Snapshot),
    s.engine = .exec (.drive v :: rest) snap ∧ Inv s := ⟨_, _, _, _, rfl, busy_inv⟩

theorem witness_SpinTakesOneStepPerIteration : ∃ (s : State) (n : Nat) (rest : List MicroOp) (snap : Snapshot),
    s.engine = .exec (.spin n :: rest) snap ∧ 1 ≤ n := ⟨busy [.spin 1], 1, [], _, rfl, Nat.le_refl 1⟩

theorem witness_TickWaitSamplesTime : ∃ (s : State) (t : Ticks) (rest : List MicroOp) (snap : Snapshot),
    s.engine = .exec (.tickWait t :: rest) snap := ⟨busy [.tickWait 8#64], 8#64, [], _, rfl⟩

/-- TIME = 8 is the first count at which a hold of 8 ticks from 0 ends. -/
theorem witness_TickHoldEndsOnceElapsed_ends : { busy [.tickHold 0#64 8#64] with time := 8#64 }.engine =
      .exec [.tickHold 0#64 8#64] ready.snapshot ∧
    (8#64).toNat ≤ ((8#64).toNat + 2 ^ 64 - (0#64).toNat) % 2 ^ 64 := ⟨rfl, by decide⟩

theorem witness_TickHoldEndsOnceElapsed_holds : { busy [.tickHold 0#64 8#64] with time := 7#64 }.engine =
      .exec [.tickHold 0#64 8#64] ready.snapshot ∧
    ((7#64).toNat + 2 ^ 64 - (0#64).toNat) % 2 ^ 64 < (8#64).toNat := ⟨rfl, by decide⟩

theorem witness_MaskCaptureFormsBothMasks : ∃ (s : State) (pin : BitVec 5) (rest : List MicroOp) (snap : Snapshot),
    s.engine = .exec (.maskCapture pin :: rest) snap := ⟨busy [.maskCapture 31#5], 31#5, [], _, rfl⟩

theorem witness_TheEngineMovesExactlyWhenItHasAStep_holds : engineEnabled ready = false := by decide

theorem witness_TheEngineMovesExactlyWhenItHasAStep_moves : ∃ s, Inv s ∧ engineEnabled s = true := ⟨_, busy_inv, rfl⟩

theorem witness_TheEngineMovesExactlyWhenItHasAStep_finishes : ∃ (s : State) (snap : Snapshot), s.engine = .exec [] snap :=
  ⟨busy [], _, rfl⟩

theorem witness_IterationCountsAreClampedFloors : ready.snapshot.calDiv ≠ 0#16 := by decide

theorem witness_ScalingRoundsDownAndKeepsNonzero : (1#8 : Byte) ≠ 0#8 := by decide

theorem witness_LatchTicksCoverTheLatchTime : (1#32 : Word) ≠ 0#32 ∧ (0#32 : Word) = 0#32 := by decide

theorem witness_ElapsedCountsTicksAcrossAWrap : 2 ^ 64 - 1 < 2 ^ 64 := by decide

theorem witness_OnlyAlignedWordAccessesComplete_bus_error : 255 < 256 ∧ (4 ≠ 4 ∨ 255 % 4 ≠ 0) ∧ 0 < 256 ∧ (1 ≠ 4 ∨ 0 % 4 ≠ 0) := by
  decide

theorem witness_OnlyAlignedWordAccessesComplete_word : 252 < 256 ∧ 4 = 4 ∧ 252 % 4 = 0 := by decide

theorem witness_ReservedAndReadOnlyPlacesIgnoreWrites : 0x4C ≤ 0xFC ∧ 0xFC ≤ 0xFC ∧ 0xFC % 4 = 0 ∧ 0x4C % 4 = 0 ∧
    Reg.timeHi ≠ Reg.timeLo ∧ (0xFD < 256 ∧ (4 ≠ 4 ∨ 0xFD % 4 ≠ 0)) := by decide

theorem witness_CtrlWriteSetsEnableAndFlushes : (0x00000002#32).getLsbD 1 = true ∧ State.reset.engine = .idle ∧
    State.reset.ctrlEn = false := by decide

theorem witness_StatusReadShowsTheState : Inv ready := ready_inv

theorem witness_StickyBits_cleared : ∃ (m : Move) (s t : State) (kind : ErrorKind), performMove m s = .next t ∧ m ≠ .reset ∧
    s.sticky kind = true ∧ t.sticky kind = false :=
  ⟨.clearWithEngine 0x00000200#32, { ready with errCmd := true }, _, .cmd, rfl, by decide, rfl, rfl⟩

theorem witness_StickyBits_set : ∃ (m : Move) (s t : State) (kind : ErrorKind), performMove m s = .next t ∧ m ≠ .reset ∧
    s.sticky kind = false ∧ t.sticky kind = true :=
  ⟨.engine, headed 0xC0000000#32, _, .cmd, rfl, by decide, rfl, rfl⟩

theorem witness_StickyBits_set_wins : ∃ (s t u : State) (kind : ErrorKind) (w v : Word) (es : List LogEvent),
    performMove .engine s = .next t ∧ t.log = s.log ++ es ∧ LogEvent.error kind v ∈ es ∧
    performMove (.clearWithEngine w) s = .next u :=
  ⟨headed 0xC0000000#32, _, _, .cmd, 0x00000200#32, 0xC0000000#32, [.error .cmd 0xC0000000#32], rfl, rfl, by decide, rfl⟩

theorem witness_PushAppendsOrSetsErrOvf_room : ready.fifo.length < Config.fifoDepth := fifoDepth_range.1

theorem witness_PushAppendsOrSetsErrOvf_full : ∃ s : State, Config.fifoDepth ≤ s.fifo.length :=
  ⟨{ ready with fifo := List.replicate Config.fifoDepth 0#32 }, by simp⟩

theorem witness_SameCyclePopFirstAndSetWins_pop : ∃ (s : State) (w : Word) (queued : List Word), HeadReady s w queued ∧
    s.fifo.length = Config.fifoDepth :=
  ⟨{ ready with fifo := 0#32 :: List.replicate (Config.fifoDepth - 1) 0#32 }, 0#32, _, ⟨rfl, rfl, rfl⟩, by
    have := fifoDepth_range.1
    simp only [List.length_cons, List.length_replicate]
    omega⟩

theorem witness_SameCyclePopFirstAndSetWins_set : HeadReady (headed 0xFFFFFFFF#32) 0xFFFFFFFF#32 [] ∧
    decode 0xFFFFFFFF#32 = .illegal .reservedOp ∧ HeadReady (headed 0x00000001#32) 0x00000001#32 [] ∧
    decode 0x00000001#32 = .illegal .reservedBit := ⟨headed_ready _, by decide, headed_ready _, by decide⟩

theorem witness_TheTimePairIsTheCountAtTheFirstRead : ∃ (s lo mid : State) (ms : List Move),
    performMove (hostRead .timeLo) s = .next lo ∧ Move.reset ∉ ms ∧ hostRead .timeLo ∉ ms ∧ performMoves ms lo = .next mid :=
  ⟨{ ready with time := 0x1FFFFFFFF#64 }, _, _, [.tick], performMove_hostRead _ _, by decide, by simp [hostRead], rfl⟩

theorem witness_OnlyTicksAdvanceTime : ∃ (m : Move) (s t : State), performMove m s = .next t ∧ m ≠ .tick ∧ m ≠ .reset :=
  ⟨.engine, busy [.spin 1], _, rfl, by decide, by decide⟩

theorem witness_MasksAndScaleChangeOnlyInTheirMicroOps : ∃ (m : Move) (s t : State), performMove m s = .next t ∧ m ≠ .reset ∧
    (∀ pin rest snap, s.engine ≠ .exec (.maskCapture pin :: rest) snap) ∧
    (∀ v rest snap, s.engine ≠ .exec (.setScale v :: rest) snap) ∧ s.maskValid = true :=
  ⟨.engine, busy [.spin 1], _, rfl, by decide, nofun, nofun, rfl⟩

theorem witness_GpioOutChangesOnlyInADriveOrFromOutside : ∃ (m : Move) (s t : State), performMove m s = .next t ∧
    t.gpioOut ≠ s.gpioOut :=
  ⟨.engine, busy [.drive 0x00080000#32], _, rfl, by decide⟩

theorem witness_TogglingNeverDisturbsOtherPins : ∃ (m : Move) (s t : State) (rem : List MicroOp) (snap : Snapshot) (pin : BitVec 5),
    Inv s ∧ isInner m = true ∧ s.engine = .exec rem snap ∧ PinMasks snap.maskOn snap.maskOff pin ∧
    (∀ k, k < 32 → k ≠ pin.toNat → s.gpioOut.getLsbD k = snap.maskOff.getLsbD k) ∧ performMove m s = .next t :=
  ⟨.engine, _, _, _, _, 19#5, busy_inv, rfl, rfl, pinMasks_zero 19#5, fun _ _ _ => rfl, rfl⟩

theorem witness_QueuedWordsAreNeverModified : ∃ (m : Move) (s t : State), performMove m s = .next t :=
  ⟨.engine, headed 0x00000000#32, _, rfl⟩

theorem witness_ConfigurationIsReadAtTheStartOnly_access : ∃ (a : Access) (s t : State), performMove (.host a) s = .next t :=
  ⟨_, ready, _, performMove_hostWrite .calDiv 7#32 ready⟩

theorem witness_ConfigurationIsReadAtTheStartOnly_start : ∃ (i : Instr) (s t : State) (rem : List MicroOp) (snap : Snapshot),
    exec i s = .next t ∧ t.engine = .exec rem snap := ⟨.sendBit true, ready, _, _, _, rfl, rfl⟩

theorem witness_ConfigurationIsReadAtTheStartOnly_two : ∃ (i : Instr) (s u t v : State), s.snapshot = u.snapshot ∧
    s.maskValid = u.maskValid ∧ exec i s = .next t ∧ exec i u = .next v :=
  ⟨.sendBit true, ready, { ready with time := 5#64, gpioOut := 1#32 }, _, _, rfl, rfl, rfl, rfl⟩

theorem witness_EnableGatesOnlyTheStart_disabled : ∃ s : State, s.engine = .idle ∧ s.ctrlEn = false := ⟨State.reset, rfl, rfl⟩

theorem witness_EnableGatesOnlyTheStart_busy : ∃ s t : State, s.engine ≠ .idle ∧ performMove .engine s = .next t :=
  ⟨busy [.spin 2], _, by decide, rfl⟩

theorem witness_EnableGatesOnlyTheStart_room : State.reset.fifo.length < Config.fifoDepth := fifoDepth_range.1

theorem witness_EveryStepKeepsTheInvariant : ∃ s t : State, Inv s ∧ step s = .next t :=
  ⟨{ ready with agenda := [.tick] }, _, ready_inv, rfl⟩

theorem witness_OnlyAHostAccessCanFault : Inv ready := ready_inv

theorem witness_TheAgendaIsPerformedInItsOrder : ∃ (s : State) (ms : List Move), s.agenda = ms :=
  ⟨{ ready with agenda := [.tick, .engine] }, _, rfl⟩

/-- With a word queued behind the command, so that only its finish ends the moves. -/
theorem witness_TheWaveformIsFixedWhateverTheInterleaving : ∃ (s t : State) (rem : List MicroOp) (snap : Snapshot) (ms : List Move),
    s.engine = .exec rem snap ∧ Move.reset ∉ ms ∧ FinishesBy ms s t :=
  ⟨{ busy [.drive 0x00000000#32, .tickWait 1#64] with fifo := [0x00000000#32] }, _, _, _,
    [.engine, .engine, .tick, .gpioWrite 1#32, .engine, .engine], rfl, by decide,
    nofun, _, rfl, nofun, _, rfl, nofun, _, rfl, nofun, _, rfl, nofun, _, rfl, nofun, _, rfl, rfl, rfl⟩

theorem witness_EveryCommandInProgressCanFinish : ∃ (s : State) (rem : List MicroOp) (snap : Snapshot), Inv s ∧
    s.engine = .exec rem snap := ⟨_, _, _, busy_inv, rfl⟩

theorem witness_LineDrivingCommandsEndLow : ∃ (i : Instr) (s t u : State) (ms : List Move), isDriving i = true ∧ Startable i s ∧
    exec i s = .next t ∧ (∀ m ∈ ms, disturbsTheLine m = false) ∧ FinishesBy ms t u :=
  ⟨.sendBit true, { ready with calDiv := 1000#16 }, _, _, List.replicate 5 .engine, rfl, ⟨fun _ => rfl, fun _ => by decide⟩,
    rfl, by decide, nofun, _, rfl, nofun, _, rfl, nofun, _, rfl, nofun, _, rfl, nofun, _, rfl, rfl, rfl⟩

/-- An empty strip: a FILL with SHOW = 0 drives nothing. -/
theorem witness_LineDrivingCommandsEndLow_empty_strip : ∃ (s t u : State) (ms : List Move), s.stripLen = 0#16 ∧
    Startable (.fill false 1#8 2#8 3#8) s ∧ exec (.fill false 1#8 2#8 3#8) s = .next t ∧
    (∀ m ∈ ms, disturbsTheLine m = false) ∧ FinishesBy ms t u :=
  ⟨{ ready with stripLen := 0#16 }, _, _, [.engine], rfl, ⟨fun _ => rfl, fun _ => by decide⟩, rfl, by decide,
    nofun, _, rfl, rfl, rfl⟩

theorem witness_BitPhasesLastADriveAndTheirIterations : ∃ (s : State) (b : Bool) (rest : List MicroOp) (snap : Snapshot),
    s.engine = .exec (bitU snap b ++ rest) snap := ⟨busy (bitU ready.snapshot true ++ []), true, [], _, rfl⟩

theorem witness_ACommandBoundaryLengthensTheLowPhase : ∃ (s : State) (iters nops : Nat) (snap : Snapshot) (i : Instr)
    (queued : List Word), s.engine = .exec [.drive snap.maskOff, .spin iters] snap ∧ 1 ≤ iters ∧ s.ctrlEn = true ∧
    s.fifo = List.replicate nops 0x00000000#32 ++ encode i :: queued ∧ isTimed i = true ∧ s.maskValid = true ∧
    s.calDiv ≠ 0#16 ∧ s.stripLen ≠ 0#16 :=
  ⟨{ busy [.drive 0x00000000#32, .spin 45] with fifo := [0x00000000#32, encode (.sendBit true)] }, 45, 1, ready.snapshot, .sendBit true, [],
    rfl, by decide, rfl, rfl, rfl, rfl, by decide, by decide⟩

theorem witness_ACalibratedPhaseFallsShortByLessThanOneIteration : ∃ (p : StepTimes) (requested correction calDiv : Half),
    calDiv ≠ 0#16 ∧ p.iterNs = calDiv.toNat ∧ p.driveNs = correction.toNat ∧
    correction.toNat + calDiv.toNat ≤ requested.toNat :=
  ⟨⟨70, 10, 5⟩, 700#16, 70#16, 10#16, by decide, rfl, rfl, by decide⟩

theorem witness_TheMachineTakesItsMovesFromAFairSchedule : ∃ (s t : State) (n : Nat), Host.Core.run core n s = .next t :=
  ⟨{ ready with agenda := [.tick, .engine] }, _, 2, rfl⟩

/-- A fair run: a tick ends the hold, two engine turns end the command, and only ticks follow. -/
def fairMoves : Nat → Move
  | 1 | 2 => .engine
  | _ => .tick

/-- The states of that run. -/
def fairRun : Nat → State
  | 0 => busy [.tickHold 0#64 1#64]
  | 1 => { busy [.tickHold 0#64 1#64] with time := 1#64 }
  | 2 => { busy [] with time := 1#64, log := [.tickHold 0#64 1#64 1#64] }
  | n + 3 => { ready with time := BitVec.ofNat 64 (n + 1), log := [.tickHold 0#64 1#64 1#64] }

theorem witness_InEveryFairRunHoldsEndAndCommandsFinish : Runs fairMoves fairRun ∧ WeaklyFair fairMoves fairRun ∧
    NoHoldWraps fairMoves fairRun ∧ (fairRun 0).engine = .exec [.tickHold 0#64 1#64] ready.snapshot := by
  refine ⟨?_, ⟨fun n => ⟨n + 3, Nat.le_add_right n 3, rfl⟩, fun n h => ?_⟩, ?_, rfl⟩
  · intro n
    match n with
    | 0 | 1 | 2 => rfl
    | n + 3 =>
      show Host.Outcome.next (tickStep (fairRun (n + 3))) = .next (fairRun (n + 4))
      simp only [tickStep, fairRun, BitVec.ofNat_add]
      rfl
  · exact absurd (h (n + 3) (Nat.le_add_right n 3)) Bool.false_ne_true
  · intro n start t rest snap he helapsed hm
    match n with
    | 0 => cases he; exact absurd helapsed (by decide)
    | 1 | 2 => cases hm
    | n + 3 => cases he

end Sys2Proof.Tests
end

section
/-! The layer the statements about the state share: what a move can do to the part of the state that no bus access writes, to
the FIFO and to the sticky bits with the drive log, said once for every move (20_memory.md R68). -/

namespace Sys2Proof.Machine

/-! ## Behind the bus -/

/-- The two states agree in what no access of the host writes: the engine, the masks, SCALE, TIME and the GPIO port. -/
structure SameBehindBus (s t : State) : Prop where
  engine : t.engine = s.engine
  maskValid : t.maskValid = s.maskValid
  maskOn : t.maskOn = s.maskOn
  maskOff : t.maskOff = s.maskOff
  scale : t.scale = s.scale
  gpioOut : t.gpioOut = s.gpioOut

theorem SameBehindBus.refl (s : State) : SameBehindBus s s := ⟨rfl, rfl, rfl, rfl, rfl, rfl⟩

theorem clearSticky_sameBehindBus (w : Word) (s : State) : SameBehindBus s (clearSticky w s) :=
  ⟨rfl, rfl, rfl, rfl, rfl, rfl⟩

theorem pushCmd_sameBehindBus (depth : Nat) (w : Word) (s : State) : SameBehindBus s (pushCmd depth w s) := by
  obtain ⟨-, h⟩ | ⟨-, h⟩ := pushCmd_cases depth w s <;> rw [h] <;> exact ⟨rfl, rfl, rfl, rfl, rfl, rfl⟩

theorem writeReg_sameBehindBus (depth : Nat) (r : Reg) (w : Word) (s : State) : SameBehindBus s (writeReg depth r w s) := by
  cases r with
  | cmd => exact pushCmd_sameBehindBus depth w s
  | _ => exact ⟨rfl, rfl, rfl, rfl, rfl, rfl⟩

/-- A read of any register but TIME_LO has no effect (10_state.md R24, 20_memory.md R64). -/
theorem readEffect_eq_self {r : Reg} (h : r ≠ .timeLo) (s : State) : readEffect r s = s := if_neg h

theorem readEffect_timeLo (s : State) : readEffect .timeLo s = { s with timeHiShadow := s.time.extractLsb' 32 32 } := rfl

theorem readEffect_sameBehindBus (r : Reg) (s : State) : SameBehindBus s (readEffect r s) := by
  by_cases h : r = .timeLo
  · rw [h, readEffect_timeLo]
    exact ⟨rfl, rfl, rfl, rfl, rfl, rfl⟩
  · rw [readEffect_eq_self h]
    exact .refl s

theorem hostAccess_sameBehindBus {a : Access} {s t : State} (h : hostAccess a s = .next t) : SameBehindBus s t := by
  obtain ⟨r, -, rfl⟩ | rfl | ⟨r, v, -, rfl⟩ | rfl := hostAccess_next h
  · obtain ⟨h₁, h₂, h₃, h₄, h₅, h₆⟩ := readEffect_sameBehindBus r s
    exact ⟨h₁, h₂, h₃, h₄, h₅, h₆⟩
  · exact ⟨rfl, rfl, rfl, rfl, rfl, rfl⟩
  · exact writeReg_sameBehindBus _ r v s
  · exact .refl _

/-- What a move that completes has done behind the bus: an engine turn is an engine step, beside which the host's write in the
same clock cycle changes nothing there (20_memory.md R68). -/
inductive MoveBehindBus (s t : State) : Move → Prop where
  | turn {m : Move} (s' t' : State) (isTurn : m.isTurn = true) (before : SameBehindBus s s') (step : EngineStepTo s' t')
      (after : SameBehindBus t' t) : MoveBehindBus s t m
  | tick (ticked : t = tickStep s) : MoveBehindBus s t .tick
  | host (a : Access) (same : SameBehindBus s t) : MoveBehindBus s t (.host a)
  | gpioWrite (v : Word) (written : t = gpioWrite v s) : MoveBehindBus s t (.gpioWrite v)
  | gpioReset (written : t = Machine.gpioWrite Config.gpioOutReset s) : MoveBehindBus s t .gpioReset
  | reset (cleared : t = blockReset s) : MoveBehindBus s t .reset

theorem performMove_behindBus {m : Move} {s t : State} (h : performMove m s = .next t) : MoveBehindBus s t m := by
  cases m with
  | engine => exact .turn s t rfl (.refl s) (engineStep_next h) (.refl t)
  | tick => cases h; exact .tick rfl
  | host a => exact .host a (hostAccess_sameBehindBus h)
  | pushWithEngine w =>
    obtain ⟨mid, hs, hp⟩ := thenDo_eq_next.mp h
    cases hp
    exact .turn s mid rfl (.refl s) (engineStep_next hs) (pushCmd_sameBehindBus _ w mid)
  | clearWithEngine w =>
    exact .turn (clearSticky w s) t rfl (clearSticky_sameBehindBus w s) (engineStep_next h) (.refl t)
  | gpioWrite v => cases h; exact .gpioWrite v rfl
  | gpioReset => cases h; exact .gpioReset rfl
  | reset => cases h; exact .reset rfl

/-- An engine step changes the masks only in a MaskCapture, which makes them valid masks over GPIO_OUT
(43_control_commands.md R172). -/
theorem EngineStepTo.masks {s t : State} (h : EngineStepTo s t) :
    (t.maskOn = s.maskOn ∧ t.maskOff = s.maskOff ∧ t.maskValid = s.maskValid) ∨
    ∃ pin rest snap, s.engine = .exec (.maskCapture pin :: rest) snap ∧
      t.maskOn = (masksOf s.gpioOut pin).1 ∧ t.maskOff = (masksOf s.gpioOut pin).2 ∧ t.maskValid = true := by
  cases h with
  | maskCapture pin rest snap head => exact .inr ⟨pin, rest, snap, head, rfl, rfl, rfl⟩
  | _ => exact .inl ⟨rfl, rfl, rfl⟩

/-- An engine step changes SCALE only in a SetScale (41_pulse_commands.md R134). -/
theorem EngineStepTo.scale {s t : State} (h : EngineStepTo s t) :
    t.scale = s.scale ∨ ∃ v rest snap, s.engine = .exec (.setScale v :: rest) snap := by
  cases h with
  | setScale v rest snap head => exact .inr ⟨v, rest, snap, head⟩
  | _ => exact .inl rfl

/-- An engine step writes GPIO_OUT only in a Drive (40_engine.md R110). -/
theorem EngineStepTo.gpioOut {s t : State} (h : EngineStepTo s t) :
    t.gpioOut = s.gpioOut ∨ ∃ v rest snap, s.engine = .exec (.drive v :: rest) snap ∧ t.gpioOut = v := by
  cases h with
  | drive v rest snap head => exact .inr ⟨v, rest, snap, head, rfl⟩
  | _ => exact .inl rfl

/-! ## The TIME_HI shadow -/

theorem EngineStepTo.timeHiShadow {s t : State} (h : EngineStepTo s t) : t.timeHiShadow = s.timeHiShadow := by
  cases h <;> rfl

theorem pushCmd_timeHiShadow (depth : Nat) (w : Word) (s : State) : (pushCmd depth w s).timeHiShadow = s.timeHiShadow := by
  obtain ⟨-, h⟩ | ⟨-, h⟩ := pushCmd_cases depth w s <;> simp [h]

theorem writeReg_timeHiShadow (depth : Nat) (r : Reg) (w : Word) (s : State) :
    (writeReg depth r w s).timeHiShadow = s.timeHiShadow := by
  cases r with
  | cmd => exact pushCmd_timeHiShadow depth w s
  | _ => rfl

theorem hostAccess_timeHiShadow {a : Access} {s t : State} (h : hostAccess a s = .next t)
    (hlo : Move.host a ≠ hostRead .timeLo) : t.timeHiShadow = s.timeHiShadow := by
  obtain ⟨r, rfl, rfl⟩ | rfl | ⟨r, v, -, rfl⟩ | rfl := hostAccess_next h
  · have hr : r ≠ .timeLo := fun hr => hlo (hr ▸ rfl)
    rw [readEffect_eq_self hr, answer_timeHiShadow]
  · rfl
  · exact writeReg_timeHiShadow _ r v s
  · rfl

/-- Only a TIME_LO read and a reset change the shadow (10_state.md R41). -/
theorem performMove_timeHiShadow {m : Move} {s t : State} (h : performMove m s = .next t) (hreset : m ≠ .reset)
    (hlo : m ≠ hostRead .timeLo) : t.timeHiShadow = s.timeHiShadow := by
  cases m with
  | engine => exact (engineStep_next h).timeHiShadow
  | host a => exact hostAccess_timeHiShadow h hlo
  | pushWithEngine w =>
    obtain ⟨mid, hs, hp⟩ := thenDo_eq_next.mp h
    cases hp
    rw [pushCmd_timeHiShadow, (engineStep_next hs).timeHiShadow]
  | clearWithEngine w => exact (engineStep_next h).timeHiShadow
  | reset => exact absurd rfl hreset
  | tick => cases h; rfl
  | gpioWrite v => cases h; rfl
  | gpioReset => cases h; rfl

/-- What every move of a list keeps, the list keeps. -/
theorem performMoves_keeps {P : State → Prop} {ms : List Move}
    (hmove : ∀ m ∈ ms, ∀ s t, performMove m s = .next t → P s → P t) {s t : State} (h : performMoves ms s = .next t)
    (hs : P s) : P t := by
  induction ms generalizing s with
  | nil => cases h; exact hs
  | cons m ms ih =>
    obtain ⟨mid, hm, hms⟩ := thenDo_eq_next.mp h
    exact ih (fun m' hm' => hmove m' (.tail m hm')) hms (hmove m (.head ms) s mid hm hs)

/-! ## The FIFO -/

/-- The FIFO is the old one or what a pop leaves of it, with at most one word appended where there was room, or it is empty
(10_state.md R43). -/
def FifoMove (old new : List Word) : Prop :=
  new = [] ∨ ∃ pushed : List Word, pushed.length ≤ 1 ∧ (pushed = [] ∨ new.length ≤ Config.fifoDepth) ∧
    (new = old ++ pushed ∨ new = old.tail ++ pushed)

theorem FifoMove.of_popped {old new : List Word} (h : new = old ∨ new = old.tail) : FifoMove old new :=
  .inr ⟨[], Nat.zero_le 1, .inl rfl, by simpa using h⟩

theorem FifoMove.refl (fifo : List Word) : FifoMove fifo fifo := .of_popped (.inl rfl)

theorem FifoMove.length_le {old new : List Word} (h : FifoMove old new) (hold : old.length ≤ Config.fifoDepth) :
    new.length ≤ Config.fifoDepth := by
  obtain rfl | ⟨pushed, -, rfl | hroom, hnew⟩ := h
  · exact Nat.zero_le _
  · obtain rfl | rfl := hnew <;> simp <;> omega
  · exact hroom

theorem EngineStepTo.fifo {s t : State} (h : EngineStepTo s t) : t.fifo = s.fifo ∨ t.fifo = s.fifo.tail := by
  cases h with
  | refuse w queued kind idle enabled head => exact .inr (head ▸ rfl)
  | start w queued i idle enabled head => exact .inr (head ▸ rfl)
  | refuseLegal w queued i kind idle enabled head => exact .inr (head ▸ rfl)
  | _ => exact .inl rfl

/-- A push to a FIFO that may have been popped in the same clock cycle. -/
theorem pushCmd_fifoMove {old : List Word} (w : Word) (s : State) (h : s.fifo = old ∨ s.fifo = old.tail) :
    FifoMove old (pushCmd Config.fifoDepth w s).fifo := by
  obtain ⟨hroom, hp⟩ | ⟨-, hp⟩ := pushCmd_cases Config.fifoDepth w s <;> rw [hp]
  · exact .inr ⟨[w], Nat.le_refl 1, .inr (by simpa using hroom), by simpa using h⟩
  · exact .of_popped h

theorem writeReg_fifoMove (r : Reg) (w : Word) (s : State) :
    FifoMove s.fifo (writeReg Config.fifoDepth r w s).fifo := by
  cases r with
  | ctrl =>
    show FifoMove s.fifo (if w.getLsbD 1 then [] else s.fifo)
    split
    · exact .inl rfl
    · exact .refl _
  | cmd => exact pushCmd_fifoMove w s (.inl rfl)
  | _ => exact .refl s.fifo

theorem readEffect_fifo (r : Reg) (s : State) : (readEffect r s).fifo = s.fifo := by
  unfold readEffect
  split <;> rfl

theorem performMove_fifoMove {m : Move} {s t : State} (h : performMove m s = .next t) : FifoMove s.fifo t.fifo := by
  cases m with
  | engine => exact .of_popped (engineStep_next h).fifo
  | host a =>
    obtain ⟨r, -, rfl⟩ | rfl | ⟨r, v, -, rfl⟩ | rfl := hostAccess_next h
    · rw [answer_fifo, readEffect_fifo]
      exact .refl _
    · exact .refl s.fifo
    · exact writeReg_fifoMove r v s
    · exact .refl _
  | pushWithEngine w =>
    obtain ⟨mid, hs, hp⟩ := thenDo_eq_next.mp h
    cases hp
    exact pushCmd_fifoMove w mid (engineStep_next hs).fifo
  | clearWithEngine w => exact .of_popped (engineStep_next h).fifo
  | tick => cases h; exact .refl s.fifo
  | gpioWrite v => cases h; exact .refl s.fifo
  | gpioReset => cases h; exact .refl s.fifo
  | reset => cases h; exact .inl rfl

end Sys2Proof.Machine

namespace Sys2Proof.Safety

open Sys2Proof.Machine

/-! ## The invariant -/

theorem PinMasks.getLsbD_eq {on off : Word} {pin : BitVec 5} (h : PinMasks on off pin) {k : Nat} (hk : k < 32)
    (hpin : k ≠ pin.toNat) : on.getLsbD k = off.getLsbD k := by
  have hx : (on.getLsbD k ^^ off.getLsbD k) = false := by
    rw [← BitVec.getLsbD_xor, h.1, getLsbD_pinBit pin hk, beq_eq_false_iff_ne.mpr hpin]
  simpa using hx

/-- MaskCapture's masks are masks of its pin (43_control_commands.md R172, 10_state.md R33). -/
theorem pinMasks_masksOf (cur : Word) (pin : BitVec 5) : PinMasks (masksOf cur pin).1 (masksOf cur pin).2 pin := by
  have hpin : (pinBit pin).getLsbD pin.toNat = true := by simp [getLsbD_pinBit pin pin.isLt]
  refine ⟨BitVec.eq_of_getElem_eq fun k hk => ?_, ?_, ?_⟩
  · simp only [masksOf, BitVec.getElem_xor, BitVec.getElem_or, BitVec.getElem_and, BitVec.getElem_not]
    cases cur[k] <;> cases (pinBit pin)[k] <;> rfl
  · simp [masksOf, hpin]
  · simp [masksOf, hpin]

theorem masksInv_of_same {s t : State} (hon : t.maskOn = s.maskOn) (hoff : t.maskOff = s.maskOff)
    (hvalid : t.maskValid = s.maskValid) (h : MasksInv s) : MasksInv t := by
  unfold MasksInv at *
  rwa [hvalid, hon, hoff]

theorem masksInv_of_pinMasks {s : State} {pin : BitVec 5} (hvalid : s.maskValid = true)
    (h : PinMasks s.maskOn s.maskOff pin) : MasksInv s := by
  rw [MasksInv, if_pos hvalid]
  exact ⟨pin, h⟩

theorem engineStepTo_keeps_masksInv {s t : State} (h : EngineStepTo s t) (hs : MasksInv s) : MasksInv t := by
  obtain ⟨hon, hoff, hvalid⟩ | ⟨pin, -, -, -, hon, hoff, hvalid⟩ := h.masks
  · exact masksInv_of_same hon hoff hvalid hs
  · exact masksInv_of_pinMasks hvalid (hon ▸ hoff ▸ pinMasks_masksOf s.gpioOut pin)

/-- What an expansion can hold: micro-operations that are ok and no TickHold, and the last drive, if there is one, MASK_OFF. -/
def Expanded (snap : Snapshot) (us : List MicroOp) : Prop :=
  (∀ u ∈ us, MicroOpOk snap u ∧ isHold u = false) ∧ (lastDrive us = none ∨ lastDrive us = some snap.maskOff)

section
variable {snap : Snapshot}

theorem Expanded.nil : Expanded snap [] := ⟨nofun, .inl rfl⟩

/-- One micro-operation that is not a drive. -/
theorem Expanded.single {u : MicroOp} (hok : MicroOpOk snap u) (hhold : isHold u = false) (hdrive : lastDrive [u] = none) :
    Expanded snap [u] :=
  ⟨fun v hv => by cases List.mem_singleton.mp hv; exact ⟨hok, hhold⟩, .inl hdrive⟩

theorem Expanded.append {us vs : List MicroOp} (hu : Expanded snap us) (hv : Expanded snap vs) : Expanded snap (us ++ vs) := by
  refine ⟨fun u h => (List.mem_append.mp h).elim (hu.1 u) (hv.1 u), ?_⟩
  rw [lastDrive_append]
  obtain h | h := hv.2 <;> rw [h]
  · exact hu.2
  · exact .inr rfl

theorem Expanded.copies (n : Nat) {us : List MicroOp} (h : Expanded snap us) : Expanded snap (copies n us) := by
  induction n with
  | zero => exact .nil
  | succ n ih =>
    rw [Machine.copies, List.replicate_succ, List.flatten_cons]
    exact h.append ih

/-- The engine's list right after a start. -/
theorem Expanded.engineInv {us : List MicroOp} (h : Expanded snap us) : EngineInv (.exec us snap) :=
  ⟨fun u hu => (h.1 u hu).1, fun u hu => (h.1 u (List.mem_of_mem_tail hu)).2, h.2⟩

variable (hpin : ∃ pin, PinMasks snap.maskOn snap.maskOff pin)
include hpin

theorem expanded_bitU (b : Bool) : Expanded snap (bitU snap b) := by
  refine ⟨fun u hu => ?_, .inr (lastDrive_bitU snap b)⟩
  simp only [bitU, List.mem_cons, List.not_mem_nil, or_false] at hu
  obtain rfl | rfl | rfl | rfl := hu
  · exact ⟨⟨.inl rfl, hpin⟩, rfl⟩
  · exact ⟨by cases b <;> exact Nat.le_max_left 1 _, rfl⟩
  · exact ⟨⟨.inr rfl, hpin⟩, rfl⟩
  · exact ⟨by cases b <;> exact Nat.le_max_left 1 _, rfl⟩

theorem expanded_byteU (x : Byte) : Expanded snap (byteU snap x) := by
  have hbit := expanded_bitU hpin
  exact (((((((hbit _).append (hbit _)).append (hbit _)).append (hbit _)).append (hbit _)).append (hbit _)).append
    (hbit _)).append (hbit _)

theorem expanded_pixelU (r g b : Byte) : Expanded snap (pixelU snap r g b) :=
  ((expanded_byteU hpin g).append (expanded_byteU hpin r)).append (expanded_byteU hpin b)

theorem expanded_latchU (tickHz : Nat) : Expanded snap (latchU tickHz snap) := by
  refine ⟨fun u hu => ?_, .inr rfl⟩
  simp only [latchU, List.mem_cons, List.not_mem_nil, or_false] at hu
  obtain rfl | rfl := hu
  · exact ⟨⟨.inr rfl, hpin⟩, rfl⟩
  · exact ⟨trivial, rfl⟩

end

/-- A command that drives the line starts only with MASK_VALID (40_engine.md R103). -/
theorem maskValid_of_startError_none {s : State} {i : Instr} (hstart : startError s i = none) (hi : isDriving i = true) :
    s.maskValid = true := by
  by_contra hv
  cases i <;> simp [startError, hv, isDriving, isTimed] at hstart hi

/-- Valid masks are masks of a pin (10_state.md R33). -/
theorem pinMasks_of_maskValid {s : State} (hs : MasksInv s) (hv : s.maskValid = true) :
    ∃ pin, PinMasks s.maskOn s.maskOff pin := by
  rwa [MasksInv, if_pos hv] at hs

/-- The expansion of a command whose start checks pass, over masks that meet the invariant. -/
theorem expanded_expansion {s : State} {i : Instr} (hs : MasksInv s) (hstart : startError s i = none) :
    Expanded s.snapshot (expansion s.snapshot i) := by
  have hpin : isDriving i = true → ∃ pin, PinMasks s.snapshot.maskOn s.snapshot.maskOff pin :=
    fun hi => pinMasks_of_maskValid hs (maskValid_of_startError_none hstart hi)
  cases i with
  | nop => exact .nil
  | maskinit pin => exact .single trivial rfl rfl
  | sendBit bit => exact expanded_bitU (hpin rfl) bit
  | sendByte byte => exact expanded_byteU (hpin rfl) byte
  | sendPixel r g b => exact expanded_pixelU (hpin rfl) r g b
  | setScale scale => exact .single trivial rfl rfl
  | sendPixelScaled r g b => exact expanded_pixelU (hpin rfl) _ _ _
  | latch => exact expanded_latchU (hpin rfl) _
  | fill shown r g b =>
    refine .append (.copies _ (expanded_pixelU (hpin rfl) r g b)) ?_
    split
    · exact expanded_latchU (hpin rfl) _
    · exact .nil
  | fillScaled r g b => exact .copies _ (expanded_pixelU (hpin rfl) _ _ _)
  | delayTicks t => exact .single trivial rfl rfl
  | waitIters n => exact .single (Nat.le_max_left 1 n.toNat) rfl rfl

/-- The head of the engine's list is done. -/
theorem engineInv_rest {u : MicroOp} {rest : List MicroOp} {snap : Snapshot} (h : EngineInv (.exec (u :: rest) snap)) :
    EngineInv (.exec rest snap) := by
  obtain ⟨hok, hhold, hlast⟩ := h
  refine ⟨fun v hv => hok v (.tail u hv), fun v hv => hhold v (List.mem_of_mem_tail hv), ?_⟩
  cases u with
  | drive v => cases hr : lastDrive rest <;> simp_all [lastDrive]
  | _ => exact hlast

/-- The head of the engine's list becomes another micro-operation that leaves the last drive as it was. -/
theorem engineInv_replaceHead {u v : MicroOp} {rest : List MicroOp} {snap : Snapshot} (h : EngineInv (.exec (u :: rest) snap))
    (hok : MicroOpOk snap v) (hlast : lastDrive (v :: rest) = lastDrive (u :: rest)) :
    EngineInv (.exec (v :: rest) snap) := by
  obtain ⟨hoks, hhold, hdrive⟩ := h
  exact ⟨List.forall_mem_cons.mpr ⟨hok, fun x hx => hoks x (.tail u hx)⟩, hhold, hlast ▸ hdrive⟩

theorem engineStepTo_keeps_engineInv {s t : State} (h : EngineStepTo s t) (hmasks : MasksInv s) (hs : EngineInv s.engine) :
    EngineInv t.engine := by
  cases h with
  | hold => exact hs
  | refuse => trivial
  | refuseLegal => trivial
  | finish => trivial
  | start w queued i idle enabled head decoded ok => exact (expanded_expansion (s := s) hmasks ok).engineInv
  | drive v rest snap head => exact engineInv_rest (head ▸ hs)
  | spin n rest snap pos head =>
    rw [head] at hs
    rw [setEngine_engine]
    split
    · exact engineInv_rest hs
    · exact engineInv_replaceHead hs (show 1 ≤ n - 1 by omega) rfl
  | tickWait t rest snap head => exact engineInv_replaceHead (u := .tickWait t) (head ▸ hs) trivial rfl
  | tickHold begun t rest snap head elapsed => exact engineInv_rest (head ▸ hs)
  | setScale v rest snap head => exact engineInv_rest (head ▸ hs)
  | maskCapture pin rest snap head => exact engineInv_rest (head ▸ hs)

theorem reset_inv : Inv State.reset := ⟨Nat.zero_le _, ⟨rfl, rfl⟩, trivial⟩

theorem sameBehindBus_keeps_masks_engine {s t : State} (h : SameBehindBus s t) (hs : MasksInv s ∧ EngineInv s.engine) :
    MasksInv t ∧ EngineInv t.engine :=
  ⟨masksInv_of_same h.maskOn h.maskOff h.maskValid hs.1, h.engine ▸ hs.2⟩

theorem performMove_keeps_masks_engine {m : Move} {s t : State} (h : performMove m s = .next t)
    (hs : MasksInv s ∧ EngineInv s.engine) : MasksInv t ∧ EngineInv t.engine := by
  cases performMove_behindBus h with
  | turn s' t' isTurn before step after =>
    obtain ⟨hm, he⟩ := sameBehindBus_keeps_masks_engine before hs
    exact sameBehindBus_keeps_masks_engine after
      ⟨engineStepTo_keeps_masksInv step hm, engineStepTo_keeps_engineInv step hm he⟩
  | tick ht => subst ht; exact hs
  | host a same => exact sameBehindBus_keeps_masks_engine same hs
  | gpioWrite v ht => subst ht; exact hs
  | gpioReset ht => subst ht; exact hs
  | reset ht => subst ht; exact reset_inv.2

/-- Every move keeps the invariant. -/
theorem performMove_keeps_inv {m : Move} {s t : State} (h : performMove m s = .next t) (hs : Inv s) : Inv t := by
  obtain ⟨hfifo, hmasks, hengine⟩ := hs
  exact ⟨(performMove_fifoMove h).length_le hfifo, performMove_keeps_masks_engine h ⟨hmasks, hengine⟩⟩

/-- Settles O50: the step is a move, and the agenda is no part of the invariant. -/
theorem everyStepKeepsTheInvariant : Obligations.EveryStepKeepsTheInvariant := by
  intro s t hs h
  unfold step scheduledStep at h
  split at h <;> exact performMove_keeps_inv h hs

/-- Settles O49: the FIFO is empty, the masks are 0 and the engine is Idle. -/
theorem resetMeetsTheInvariant : Obligations.ResetMeetsTheInvariant := reset_inv

end Sys2Proof.Safety
end

section
/-! What the moves log, what an engine step does not read, what single accesses do, and the statements on what changes an
element of the state (10_state.md R26, R30 to R35, R41, R43, R45, R46). -/

namespace Sys2Proof.Machine

/-! ## The sticky bits and the drive log -/

@[simp] theorem sticky_record (s : State) (e : LogEvent) : (record e s).sticky = s.sticky := rfl

@[simp] theorem sticky_setEngine (s : State) (e : Engine) : (setEngine e s).sticky = s.sticky := rfl

@[simp] theorem sticky_setSticky (s : State) (set kind : ErrorKind) :
    (setSticky set s).sticky kind = (s.sticky kind || set == kind) := by
  cases kind <;> rfl

@[simp] theorem sticky_clearSticky (s : State) (w : Word) (kind : ErrorKind) :
    (clearSticky w s).sticky kind = (s.sticky kind && !w.getLsbD kind.code) := by
  cases kind <;> rfl

/-- From `s` to `t` events are added to the drive log, and exactly the sticky bits of the errors among them are set
(60_exceptions.md R201). -/
def LogsItsErrors (s t : State) : Prop :=
  ∃ es, t.log = s.log ++ es ∧ ∀ kind, t.sticky kind = true ↔ s.sticky kind = true ∨ ∃ w, LogEvent.error kind w ∈ es

theorem LogsItsErrors.of_eq {s t : State} (hlog : t.log = s.log) (hsticky : t.sticky = s.sticky) : LogsItsErrors s t :=
  ⟨[], by simp [hlog], by simp [hsticky]⟩

theorem LogsItsErrors.of_event {s t : State} {e : LogEvent} (he : ∀ kind w, LogEvent.error kind w ≠ e)
    (hlog : t.log = s.log ++ [e]) (hsticky : t.sticky = s.sticky) : LogsItsErrors s t :=
  ⟨[e], hlog, by simp [hsticky, he]⟩

theorem LogsItsErrors.of_error {s t : State} {kind : ErrorKind} {w : Word} (hlog : t.log = s.log ++ [.error kind w])
    (hsticky : t.sticky = (setSticky kind s).sticky) : LogsItsErrors s t :=
  ⟨[.error kind w], hlog, fun k => by simp [hsticky, eq_comm (a := k)]⟩

theorem LogsItsErrors.trans {s t u : State} (hst : LogsItsErrors s t) (htu : LogsItsErrors t u) : LogsItsErrors s u := by
  obtain ⟨es, hes, hs⟩ := hst
  obtain ⟨fs, hfs, ht⟩ := htu
  refine ⟨es ++ fs, by rw [hfs, hes, List.append_assoc], fun kind => ?_⟩
  simp only [ht, hs, List.mem_append, exists_or, or_assoc]

theorem LogsItsErrors.keeps {s t : State} {kind : ErrorKind} (h : LogsItsErrors s t) (hs : s.sticky kind = true) :
    t.sticky kind = true := by
  obtain ⟨es, -, hsticky⟩ := h
  exact (hsticky kind).mpr (.inl hs)

theorem LogsItsErrors.logged {s t : State} {kind : ErrorKind} (h : LogsItsErrors s t) (hs : s.sticky kind = false)
    (ht : t.sticky kind = true) : ∃ es w, t.log = s.log ++ es ∧ LogEvent.error kind w ∈ es := by
  obtain ⟨es, hlog, hsticky⟩ := h
  obtain ⟨w, hw⟩ := ((hsticky kind).mp ht).resolve_left (by simp [hs])
  exact ⟨es, w, hlog, hw⟩

theorem EngineStepTo.logsItsErrors {s t : State} (h : EngineStepTo s t) : LogsItsErrors s t := by
  cases h with
  | hold => exact .of_eq rfl rfl
  | refuse w queued kind => exact .of_error (kind := kind) (w := w) rfl rfl
  | start w queued i => exact .of_event (e := .start (encode i)) nofun rfl rfl
  | refuseLegal w queued i kind => exact .of_error (kind := kind) (w := encode i) rfl rfl
  | drive v => exact .of_event (e := .drive v) nofun rfl rfl
  | spin n => exact .of_event (e := .iter) nofun rfl rfl
  | tickWait t => exact .of_eq rfl rfl
  | tickHold begun t => exact .of_event (e := .tickHold begun t s.time) nofun rfl rfl
  | setScale v => exact .of_event (e := .scale v) nofun rfl rfl
  | maskCapture pin => exact .of_event (e := .mask _ _) nofun rfl rfl
  | finish => exact .of_eq rfl rfl

theorem pushCmd_logsItsErrors (depth : Nat) (w : Word) (s : State) : LogsItsErrors s (pushCmd depth w s) := by
  obtain ⟨-, h⟩ | ⟨-, h⟩ := pushCmd_cases depth w s <;> rw [h]
  · exact .of_eq rfl rfl
  · exact .of_error (kind := .ovf) (w := w) rfl rfl

theorem writeReg_logsItsErrors (depth : Nat) {r : Reg} (hr : r ≠ .status) (w : Word) (s : State) :
    LogsItsErrors s (writeReg depth r w s) := by
  cases r with
  | status => exact absurd rfl hr
  | cmd => exact pushCmd_logsItsErrors depth w s
  | _ => exact .of_eq rfl rfl

theorem readEffect_logsItsErrors (r : Reg) (s : State) : LogsItsErrors s (readEffect r s) := by
  unfold readEffect
  split <;> exact .of_eq rfl rfl

/-- Every move but a reset sets the sticky bits of the errors it logs and no other, after a STATUS write, if it makes one, has
cleared its own (10_state.md R30, 20_memory.md R68). -/
theorem performMove_logsItsErrors {m : Move} {s t : State} (h : performMove m s = .next t) (hreset : m ≠ .reset) :
    LogsItsErrors s t ∨ ∃ w, (m = hostWrite .status w ∨ m = .clearWithEngine w) ∧ LogsItsErrors (clearSticky w s) t := by
  cases m with
  | engine => exact .inl (engineStep_next h).logsItsErrors
  | host a =>
    obtain ⟨r, -, rfl⟩ | rfl | ⟨r, v, rfl, rfl⟩ | rfl := hostAccess_next h
    · exact .inl ((readEffect_logsItsErrors r s).trans (.of_eq rfl rfl))
    · exact .inl (.of_eq rfl rfl)
    · by_cases hr : r = .status
      · subst hr
        exact .inr ⟨v, .inl rfl, .of_eq rfl rfl⟩
      · exact .inl (writeReg_logsItsErrors _ hr v s)
    · exact .inl (.of_eq rfl rfl)
  | pushWithEngine w =>
    obtain ⟨mid, hs, hp⟩ := thenDo_eq_next.mp h
    cases hp
    exact .inl ((engineStep_next hs).logsItsErrors.trans (pushCmd_logsItsErrors _ w mid))
  | clearWithEngine w => exact .inr ⟨w, .inr rfl, (engineStep_next h).logsItsErrors⟩
  | reset => exact absurd rfl hreset
  | tick => cases h; exact .inl (.of_eq rfl rfl)
  | gpioWrite v => cases h; exact .inl (.of_eq rfl rfl)
  | gpioReset => cases h; exact .inl (.of_eq rfl rfl)

/-! ## What an engine step does not read -/

theorem startWord_clearSticky {w c : Word} {s t : State} (h : startWord w s = .next t) :
    ∃ u, startWord w (clearSticky c s) = .next u ∧ u.log = t.log := by
  have hstart : ∀ i, startError (clearSticky c s) i = startError s i := fun i => by cases i <;> rfl
  unfold startWord at *
  cases hd : decode w with
  | illegal why =>
    rw [hd] at h
    cases h
    exact ⟨_, rfl, rfl⟩
  | legal i =>
    simp only [hd, exec_eq, hstart] at h ⊢
    cases h
    refine ⟨_, rfl, ?_⟩
    cases startError s i <;> rfl

/-- CTRL.EN and the four sticky bits, each put through a function of its own. -/
def mapFlags (en ovf cmd noinit nocal : Bool → Bool) (s : State) : State :=
  { s with
    ctrlEn := en s.ctrlEn
    errOvf := ovf s.errOvf
    errCmd := cmd s.errCmd
    errNoinit := noinit s.errNoinit
    errNocal := nocal s.errNocal }

theorem clearSticky_eq_mapFlags (c : Word) (s : State) : clearSticky c s =
    mapFlags id (· && !c.getLsbD 8) (· && !c.getLsbD 9) (· && !c.getLsbD 10) (· && !c.getLsbD 11) s := rfl

theorem stepMicroOp_mapFlags {en ovf cmd noinit nocal : Bool → Bool} {u : MicroOp} {rest : List MicroOp} {snap : Snapshot}
    {s t : State} (h : stepMicroOp u rest snap s = .next t) :
    stepMicroOp u rest snap (mapFlags en ovf cmd noinit nocal s) = .next (mapFlags en ovf cmd noinit nocal t) := by
  cases u with
  | spin n =>
    rcases Nat.eq_zero_or_pos n with rfl | hn
    · cases h
    · simp only [stepMicroOp, stepSpin_eq hn] at h ⊢
      cases h
      rfl
  | tickHold begun t =>
    have htime : (mapFlags en ovf cmd noinit nocal s).time = s.time := rfl
    simp only [stepMicroOp, stepTickHold, htime] at h ⊢
    split at h <;> cases h
    · rw [if_pos (by assumption)]
      rfl
    · rw [if_neg (by assumption)]
  | _ => cases h; rfl

/-- A command in progress neither reads nor writes EN and the sticky bits (10_state.md R26). -/
theorem engineStep_mapFlags {en ovf cmd noinit nocal : Bool → Bool} {s t : State} (hbusy : s.engine ≠ .idle)
    (h : engineStep s = .next t) :
    engineStep (mapFlags en ovf cmd noinit nocal s) = .next (mapFlags en ovf cmd noinit nocal t) := by
  cases he : s.engine with
  | idle => exact absurd he hbusy
  | exec rem snap =>
    cases rem with
    | nil =>
      rw [engineStep_finish he] at h
      cases h
      exact engineStep_finish he
    | cons u rest =>
      rw [engineStep_exec he] at h
      exact (engineStep_exec (s := mapFlags en ovf cmd noinit nocal s) he).trans (stepMicroOp_mapFlags h)

theorem stepIdle_clearSticky {c : Word} {s t : State} (h : stepIdle s = .next t) :
    ∃ u, stepIdle (clearSticky c s) = .next u ∧ u.log = t.log := by
  unfold stepIdle at *
  rw [clearSticky_fifo, clearSticky_ctrlEn]
  cases hf : s.fifo with
  | nil =>
    rw [hf] at h
    cases h
    exact ⟨_, rfl, rfl⟩
  | cons w queued =>
    simp only [hf] at h ⊢
    split at h
    · rw [if_pos (by assumption)]
      exact startWord_clearSticky h
    · rw [if_neg (by assumption)]
      cases h
      exact ⟨_, rfl, rfl⟩

/-- What an engine step logs does not depend on the sticky bits. -/
theorem engineStep_clearSticky {c : Word} {s t : State} (h : engineStep s = .next t) :
    ∃ u, engineStep (clearSticky c s) = .next u ∧ u.log = t.log := by
  by_cases he : s.engine = .idle
  · rw [engineStep_idle he] at h
    exact engineStep_idle (s := clearSticky c s) he ▸ stepIdle_clearSticky h
  · rw [clearSticky_eq_mapFlags]
    exact ⟨_, engineStep_mapFlags he h, rfl⟩

/-! ## Starts, and single accesses of the host -/

/-- The engine after a start (40_engine.md R102). -/
theorem exec_engine {i : Instr} {s t : State} (h : exec i s = .next t) :
    t.engine = if startError s i = none then .exec (expansion s.snapshot i) s.snapshot else .idle := by
  rw [exec_eq] at h
  cases h
  cases startError s i <;> rfl

/-- Whether a start is refused depends on the snapshot and MASK_VALID only (40_engine.md R103). -/
theorem startError_congr {s u : State} (hsnap : s.snapshot = u.snapshot) (hvalid : s.maskValid = u.maskValid) (i : Instr) :
    startError s i = startError u i := by
  have hcal : s.calDiv = u.calDiv := congrArg Snapshot.calDiv hsnap
  cases i <;> simp [startError, hvalid, hcal]

/-- With EN = 0 an Idle engine holds (40_engine.md R101). -/
theorem performMove_engine_disabled {s : State} (he : s.engine = .idle) (hen : s.ctrlEn = false) :
    performMove .engine s = .next s := by
  rw [performMove, engineStep_idle he]
  obtain ⟨h, -⟩ | ⟨w, queued, -, hon, -⟩ := stepIdle_cases s
  · exact h
  · simp [hen] at hon

/-- A CMD write with room (10_state.md R31). -/
theorem performMove_push {s : State} (hroom : s.fifo.length < Config.fifoDepth) (w : Word) :
    performMove (hostWrite .cmd w) s = .next { s with fifo := s.fifo ++ [w] } := by
  rw [performMove_hostWrite, writeReg, pushCmd, if_pos hroom]

/-- A CMD write to a full FIFO (10_state.md R31, 60_exceptions.md R203). -/
theorem performMove_push_full {s : State} (hfull : Config.fifoDepth ≤ s.fifo.length) (w : Word) :
    performMove (hostWrite .cmd w) s = .next { s with errOvf := true, log := s.log ++ [.error .ovf w] } := by
  rw [performMove_hostWrite, writeReg, pushCmd, if_neg (by omega)]
  simp [record, setSticky]

theorem performMove_cmdRead (s : State) : performMove (hostRead .cmd) s = .next { s with rdata := 0#32 } :=
  performMove_hostRead .cmd s

theorem performMove_timeLoRead (s : State) : performMove (hostRead .timeLo) s =
    .next { s with rdata := s.time.extractLsb' 0 32, timeHiShadow := s.time.extractLsb' 32 32 } := by
  rw [performMove_hostRead, readReg, BitVec.setWidth_eq_extractLsb' (by decide)]
  rfl

end Sys2Proof.Machine

namespace Sys2Proof.Safety

open Sys2Proof.Machine

/-- Settles O37, from what each move logs, since what the engine logs does not depend on the bits a STATUS write clears. -/
theorem stickyBitsClearOnlyByAStatusWriteOrReset : Obligations.StickyBitsClearOnlyByAStatusWriteOrReset := by
  refine ⟨fun s w => ?_, fun m s t kind h hreset => ?_, fun s t u kind w v es h hlog hmem hu => ?_⟩
  · have hclear : ∀ sticky bit : Bool, (if bit = true then false else sticky) = (sticky && !bit) := by decide
    simp only [performMove_hostWrite, hclear]
    rfl
  · obtain hlogs | ⟨w, hm, hlogs⟩ := performMove_logsItsErrors h hreset
    · exact ⟨fun hs ht => absurd (hlogs.keeps hs) (by simp [ht]), fun hs ht => hlogs.logged hs ht⟩
    · refine ⟨fun hs ht => ⟨w, ?_, hm⟩, fun hs ht => hlogs.logged (by simp [hs]) ht⟩
      by_contra hw
      exact absurd (hlogs.keeps (kind := kind) (by simp [hs, hw])) (by simp [ht])
  · obtain ⟨u', hu', hlog'⟩ := engineStep_clearSticky (c := w) h
    cases hu'.symm.trans hu
    obtain ⟨fs, hfs, hsticky⟩ := (engineStep_next hu').logsItsErrors
    have : fs = es := List.append_cancel_left (hfs.symm.trans (hlog'.trans hlog))
    exact (hsticky kind).mpr (.inr ⟨v, this ▸ hmem⟩)

/-- Settles O42, from what a move can do behind the bus. -/
theorem masksAndScaleChangeOnlyInTheirMicroOps : Obligations.MasksAndScaleChangeOnlyInTheirMicroOps := by
  intro m s t h hreset
  cases performMove_behindBus h with
  | turn s' t' isTurn before step after =>
    rw [after.maskOn, after.maskOff, after.maskValid, after.scale, ← before.maskOn, ← before.maskOff, ← before.maskValid,
      ← before.scale, ← before.engine]
    refine ⟨fun hcapture => step.masks.resolve_right ?_, fun hset => step.scale.resolve_right ?_, fun hv => ?_⟩
    · exact fun ⟨pin, rest, snap, head, _⟩ => hcapture pin rest snap head
    · exact fun ⟨v, rest, snap, head⟩ => hset v rest snap head
    · obtain ⟨-, -, hvalid⟩ | ⟨-, -, -, -, -, -, hvalid⟩ := step.masks
      · rw [hvalid, hv]
      · exact hvalid
  | tick ht => subst ht; exact ⟨fun _ => ⟨rfl, rfl, rfl⟩, fun _ => rfl, id⟩
  | host a same =>
    exact ⟨fun _ => ⟨same.maskOn, same.maskOff, same.maskValid⟩, fun _ => same.scale, fun hv => same.maskValid.trans hv⟩
  | gpioWrite v ht => subst ht; exact ⟨fun _ => ⟨rfl, rfl, rfl⟩, fun _ => rfl, id⟩
  | gpioReset ht => subst ht; exact ⟨fun _ => ⟨rfl, rfl, rfl⟩, fun _ => rfl, id⟩
  | reset => exact absurd rfl hreset

/-- Settles O43, from what a move can do behind the bus. -/
theorem gpioOutChangesOnlyInADriveOrFromOutside : Obligations.GpioOutChangesOnlyInADriveOrFromOutside := by
  intro m s t h hne
  cases performMove_behindBus h with
  | turn s' t' isTurn before step after =>
    rw [after.gpioOut, ← before.gpioOut] at hne
    obtain ⟨v, rest, snap, head, hv⟩ := step.gpioOut.resolve_left hne
    exact .inl ⟨v, rest, snap, isTurn, before.engine ▸ head, after.gpioOut.trans hv⟩
  | tick ht => subst ht; exact absurd rfl hne
  | host a same => exact absurd same.gpioOut hne
  | gpioWrite v => exact .inr (.inl ⟨v, rfl⟩)
  | gpioReset => exact .inr (.inr rfl)
  | reset ht => subst ht; exact absurd rfl hne

/-- Settles O44: a Drive writes one of the snapshot's masks, which differ in their own pin only. -/
theorem togglingNeverDisturbsOtherPins : Obligations.TogglingNeverDisturbsOtherPins := by
  intro m s t rem snap pin hs hinner he hpins hagree h k hk hkpin
  by_cases hsame : t.gpioOut = s.gpioOut
  · rw [hsame]
  obtain ⟨v, rest, snap', -, head, hv⟩ | ⟨v, rfl⟩ | rfl := gpioOutChangesOnlyInADriveOrFromOutside m s t h hsame
  · obtain ⟨-, -, hengine⟩ := hs
    obtain ⟨rfl, rfl⟩ := Engine.exec.inj (he.symm.trans head)
    rw [he] at hengine
    obtain ⟨hmask, -⟩ : MicroOpOk snap (.drive v) := hengine.1 _ (.head rest)
    rw [hv, hagree k hk hkpin]
    obtain rfl | rfl := hmask
    · exact hpins.getLsbD_eq hk hkpin
    · rfl
  · cases hinner
  · cases hinner

/-- Settles O45, from what a move can do to the FIFO. -/
theorem queuedWordsAreNeverModified : Obligations.QueuedWordsAreNeverModified := by
  intro m s t h
  obtain hempty | ⟨pushed, hlen, -, hnew⟩ := performMove_fifoMove h
  · exact .inl hempty
  · exact .inr ⟨pushed, hlen, hnew⟩

/-- Settles O46, from the engine a start leaves. -/
theorem configurationIsReadAtTheStartOnly : Obligations.ConfigurationIsReadAtTheStartOnly := by
  refine ⟨fun a s t h => (hostAccess_sameBehindBus h).engine, fun i s t rem snap h he => ?_,
    fun i s u t v hsnap hvalid hs hu => ?_⟩
  · rw [exec_engine h] at he
    split at he <;> cases he
    rfl
  · rw [exec_engine hs, exec_engine hu, startError_congr hsnap hvalid, hsnap]

/-- Settles O47, as a command in progress does not read EN. -/
theorem enableGatesOnlyTheStart : Obligations.EnableGatesOnlyTheStart := by
  refine ⟨fun s => performMove_engine_disabled, fun s t en hbusy h => ?_,
    fun s w en hroom => performMove_push (s := { s with ctrlEn := en }) hroom w⟩
  exact engineStep_mapFlags (en := fun _ => en) (ovf := id) (cmd := id) (noinit := id) (nocal := id) hbusy h

/-- Settles O38, by the two equations of a push. -/
theorem pushAppendsOrSetsErrOvf : Obligations.PushAppendsOrSetsErrOvf :=
  fun s w => ⟨fun hroom => performMove_push hroom w, fun hfull => performMove_push_full hfull w, performMove_cmdRead s⟩

/-- Settles O40: no move between the two reads changes the shadow. -/
theorem theTimePairIsTheCountAtTheFirstRead : Obligations.TheTimePairIsTheCountAtTheFirstRead := by
  refine ⟨fun s => ⟨performMove_timeLoRead s, performMove_hostRead .timeHi s, fun v => ⟨performMove_hostWrite .timeLo v s,
    performMove_hostWrite .timeHi v s⟩⟩, rfl, fun s lo mid ms hlo hreset hnolo hms =>
    ⟨_, performMove_hostRead .timeHi mid, ?_⟩⟩
  rw [performMove_timeLoRead] at hlo
  cases hlo
  have hshadow : mid.timeHiShadow = s.time.extractLsb' 32 32 :=
    performMoves_keeps (P := fun t => t.timeHiShadow = s.time.extractLsb' 32 32)
      (fun m hm a b hab ha => (performMove_timeHiShadow hab (fun h => hreset (h ▸ hm)) (fun h => hnolo (h ▸ hm))).trans ha)
      hms rfl
  show mid.timeHiShadow ++ s.time.extractLsb' 0 32 = s.time
  rw [hshadow]
  apply BitVec.eq_of_toNat_eq
  rw [append_toNat, extract_toNat, extract_toNat]
  omega

end Sys2Proof.Safety
end

section
/-! What the host reads and writes: STATUS by its bits and fields, the 16-bit registers, reserved places and bus errors
(10_state.md R24 to R40), and the statements about them. -/

namespace Sys2Proof.Machine

/-! ## STATUS by its bits -/

theorem getLsbD_of_div {n k : Nat} {w : BitVec n} {b : Bool} (h : w.toNat / 2 ^ k % 2 = b.toNat) : w.getLsbD k = b := by
  rw [getLsbD_eq_div, h]
  cases b <;> rfl

theorem getLsbD_of_extract_zero {n lo len k : Nat} {w : BitVec n} (h : w.extractLsb' lo len = 0#len) (hlo : lo ≤ k)
    (hhi : k < lo + len) : w.getLsbD k = false := by
  have hbit := congrArg (BitVec.getLsbD · (k - lo)) h
  simpa [BitVec.getLsbD_extractLsb', show k - lo < len by omega, show lo + (k - lo) = k by omega] using hbit

section
variable (depth : Nat) (s : State)

theorem statusFlags_le : s.busy.toNat ≤ 1 ∧ s.fifoEmpty.toNat ≤ 1 ∧ (s.fifoFull depth).toNat ≤ 1 ∧ s.maskValid.toNat ≤ 1 ∧
    s.done.toNat ≤ 1 ∧ s.errOvf.toNat ≤ 1 ∧ s.errCmd.toNat ≤ 1 ∧ s.errNoinit.toNat ≤ 1 ∧ s.errNocal.toNat ≤ 1 :=
  ⟨Bool.toNat_le _, Bool.toNat_le _, Bool.toNat_le _, Bool.toNat_le _, Bool.toNat_le _, Bool.toNat_le _, Bool.toNat_le _,
    Bool.toNat_le _, Bool.toNat_le _⟩

/-- The bits of STATUS that are not reserved, but for FIFO_COUNT (10_state.md R28). -/
theorem statusWord_bits : (statusWord depth s).getLsbD 0 = s.busy ∧ (statusWord depth s).getLsbD 1 = s.fifoEmpty ∧
    (statusWord depth s).getLsbD 2 = s.fifoFull depth ∧ (statusWord depth s).getLsbD 3 = s.maskValid ∧
    (statusWord depth s).getLsbD 4 = s.done ∧ (statusWord depth s).getLsbD 8 = s.errOvf ∧
    (statusWord depth s).getLsbD 9 = s.errCmd ∧ (statusWord depth s).getLsbD 10 = s.errNoinit ∧
    (statusWord depth s).getLsbD 11 = s.errNocal := by
  have := statusFlags_le depth s
  refine ⟨?_, ?_, ?_, ?_, ?_, ?_, ?_, ?_, ?_⟩ <;> apply getLsbD_of_div <;> rw [statusWord_toNat] <;> omega

/-- FIFO_COUNT and the reserved fields of STATUS (10_state.md R28). -/
theorem statusWord_fields : (statusWord depth s).extractLsb' 16 5 = BitVec.ofNat 5 s.fifo.length ∧
    (statusWord depth s).extractLsb' 5 3 = 0#3 ∧ (statusWord depth s).extractLsb' 12 4 = 0#4 ∧
    (statusWord depth s).extractLsb' 21 11 = 0#11 := by
  have := statusFlags_le depth s
  refine ⟨?_, ?_, ?_, ?_⟩ <;> apply BitVec.eq_of_toNat_eq <;>
    rw [extract_toNat, statusWord_toNat, BitVec.toNat_ofNat] <;> omega

end

theorem busy_iff (s : State) : s.busy = true ↔ s.engine ≠ .idle := by
  unfold State.busy
  split <;> simp_all

theorem fifoEmpty_iff (s : State) : s.fifoEmpty = true ↔ s.fifo.length = 0 := by
  simp [State.fifoEmpty]

theorem done_iff (s : State) : s.done = true ↔ s.fifo.length = 0 ∧ s.engine = .idle := by
  have hbusy : s.busy = false ↔ s.engine = .idle := by rw [← Bool.not_eq_true, busy_iff, not_not]
  simp only [State.done, Bool.and_eq_true, Bool.not_eq_true', fifoEmpty_iff, hbusy]

/-- A word is 0 under a mask of places where it has 0. -/
theorem and_mask_eq_zero {x mask : Word} (h : ∀ k : Fin 32, mask.getLsbD k = true → x.getLsbD k = false) :
    x &&& mask = 0#32 := by
  refine BitVec.eq_of_getLsbD_eq fun k hk => ?_
  rw [BitVec.getLsbD_and, BitVec.getLsbD_zero]
  cases hm : mask.getLsbD k
  · simp
  · simp [h ⟨k, hk⟩ hm]

/-- A zero-extended field is 0 under a mask of the places above it. -/
theorem setWidth_and_mask_eq_zero {n : Nat} (x : BitVec n) {mask : Word}
    (h : ∀ k : Fin 32, mask.getLsbD k = true → n ≤ k) : x.setWidth 32 &&& mask = 0#32 :=
  and_mask_eq_zero fun k hk => by simp [BitVec.getLsbD_of_ge x k (h k hk)]

/-- The registers of 16 bits (10_state.md R36 to R38, R40). -/
def halfRegs : List Reg := [.calDiv, .t1h, .t1l, .t0h, .t0l, .ov1h, .ov1l, .ov0h, .ov0l, .stripLen]

theorem readReg_half {r : Reg} (hr : r ∈ halfRegs) (depth : Nat) (s : State) :
    ∃ x : Half, readReg depth s r = x.setWidth 32 := by
  fin_cases hr <;> exact ⟨_, rfl⟩

theorem readReg_writeReg_half {r : Reg} (hr : r ∈ halfRegs) (depth : Nat) (v : Word) (s : State) :
    readReg depth (writeReg depth r v s) r = (v.setWidth 16).setWidth 32 := by
  fin_cases hr <;> rfl

theorem setWidth_low_half (v : Word) : (v &&& 0x0000FFFF#32).setWidth 16 = v.setWidth 16 := by
  rw [BitVec.setWidth_and]
  exact BitVec.and_allOnes

theorem writeReg_low_half {r : Reg} (hr : r ∈ halfRegs) (depth : Nat) (v : Word) (s : State) :
    writeReg depth r (v &&& 0x0000FFFF#32) s = writeReg depth r v s := by
  fin_cases hr <;> simp only [writeReg, setWidth_low_half]

/-- A read of any register but TIME_LO changes the read data only (10_state.md R24). -/
theorem performMove_pureRead {r : Reg} (hr : r ≠ .timeLo) (s : State) :
    performMove (hostRead r) s = .next { s with rdata := readReg Config.fifoDepth s r } := by
  rw [performMove_hostRead, readEffect_eq_self hr]
  rfl

/-- A write of a register and a read of it. -/
theorem performMoves_write_read (r q : Reg) (v : Word) (s : State) :
    performMoves [hostWrite r v, hostRead q] s = .next (answer (readReg Config.fifoDepth (writeReg Config.fifoDepth r v s) q)
      (readEffect q (writeReg Config.fifoDepth r v s))) := by
  simp only [performMoves_cons, performMoves_nil, performMove_hostWrite, performMove_hostRead, thenDo_next]

/-- An access of the window that is not one aligned word is a bus error (20_memory.md R62). -/
theorem guardAccess_busError {off bytes : Nat} (hoff : off < 256) (h : bytes ≠ 4 ∨ off % 4 ≠ 0) (action : Nat → State) :
    guardAccess (Config.base + off) bytes action = .fault .busError := by
  have hw : inWindow (Config.base + off) = true := by simp [inWindow, hoff]
  have ha : wordAccess (Config.base + off) bytes = false := by
    rw [wordAccess, Nat.add_sub_cancel_left, Bool.and_eq_false_iff, beq_eq_false_iff_ne, beq_eq_false_iff_ne]
    exact h
  simp [guardAccess, hw, ha]

/-- An aligned word access of a reserved offset (10_state.md R24). -/
theorem performMove_reserved {off : Nat} (hlo : 0x4C ≤ off) (hhi : off ≤ 0xFC) (ha : off % 4 = 0) (v : Word) (s : State) :
    performMove (.host (.read (Config.base + off) 4)) s = .next { s with rdata := 0#32 } ∧
    performMove (.host (.write (Config.base + off) 4 v)) s = .next s := by
  have hoff : off < 0x100 := by omega
  simp [performMove, hostAccess, guardAccess_word hoff ha, readOffset, writeOffset, regAt_reserved hlo, answer]

/-- The reserved places of STATUS read 0 (10_state.md R28). -/
theorem statusWord_reserved (depth : Nat) (s : State) : statusWord depth s &&& 0xFFE0F0E0#32 = 0#32 := by
  obtain ⟨-, h5, h12, h21⟩ := statusWord_fields depth s
  have ranges : ∀ k : Fin 32, (0xFFE0F0E0#32).getLsbD k = true →
      5 ≤ k.val ∧ k.val < 5 + 3 ∨ 12 ≤ k.val ∧ k.val < 12 + 4 ∨ 21 ≤ k.val ∧ k.val < 21 + 11 := by decide
  refine and_mask_eq_zero fun k hk => ?_
  obtain ⟨hlo, hhi⟩ | ⟨hlo, hhi⟩ | ⟨hlo, hhi⟩ := ranges k hk
  · exact getLsbD_of_extract_zero h5 hlo hhi
  · exact getLsbD_of_extract_zero h12 hlo hhi
  · exact getLsbD_of_extract_zero h21 hlo hhi

end Sys2Proof.Machine

namespace Sys2Proof.Safety

open Sys2Proof.Machine

/-- Settles O36: FIFO_COUNT has room for the length, since FIFO_DEPTH is at most 31. -/
theorem statusReadShowsTheState : Obligations.StatusReadShowsTheState := by
  rintro s ⟨hfifo, -, -⟩
  obtain ⟨hbusy, hempty, hfull, hvalid, hdone, hovf, hcmd, hnoinit, hnocal⟩ := statusWord_bits Config.fifoDepth s
  obtain ⟨hcount, h5, h12, h21⟩ := statusWord_fields Config.fifoDepth s
  have hlen : s.fifo.length < 2 ^ 5 := by
    have := fifoDepth_range.2
    omega
  refine ⟨_, performMove_pureRead (by decide) s, ?_, ?_, ?_, hvalid, ?_, hovf, hcmd, hnoinit, hnocal, ?_, h5, h12, h21,
    fun v => ⟨_, performMove_hostWrite .status v s, rfl, rfl, rfl⟩⟩ <;> rw [readReg]
  · rw [hbusy, busy_iff]
  · rw [hempty, fifoEmpty_iff]
  · rw [hfull, State.fifoFull, beq_iff_eq]
  · rw [hdone, done_iff]
  · rw [hcount, BitVec.toNat_ofNat, Nat.mod_eq_of_lt hlen]

/-- Settles O33: the masks of the reserved bits are checked place by place. -/
theorem reservedAndReadOnlyPlacesIgnoreWrites : Obligations.ReservedAndReadOnlyPlacesIgnoreWrites := by
  intro s v
  refine ⟨fun off hlo hhi ha => performMove_reserved hlo hhi ha v s, fun r hr => ?_, fun r hr => ⟨?_, ?_⟩, ?_, ?_,
    performMove_cmdRead s, fun r hr => ⟨_, performMove_pureRead hr s⟩, performMove_pureRead (by decide) s,
    performMove_pureRead (by decide) s, ⟨_, ?_, performMove_pureRead (by decide) s⟩, performMove_pureRead (by decide) s,
    ⟨_, performMove_pureRead (by decide) s, statusWord_reserved _ s⟩, ⟨_, performMove_pureRead (by decide) s, ?_⟩,
    ⟨_, performMove_pureRead (by decide) s, ?_⟩, fun off bytes hoff h => ⟨?_, ?_⟩⟩
  · fin_cases hr <;> exact performMove_hostWrite _ v s
  · rw [performMove_hostWrite, performMove_hostWrite, writeReg_low_half hr]
  · obtain ⟨x, hx⟩ := readReg_half hr Config.fifoDepth s
    exact ⟨_, performMove_hostRead r s, hx ▸ setWidth_and_mask_eq_zero x (by decide)⟩
  · simp [performMove_hostWrite, writeReg, writeCtrl]
  · simp [performMove_hostWrite, writeReg, clearSticky]
  · exact BitVec.toNat_setWidth_of_le (by decide)
  · exact setWidth_and_mask_eq_zero s.scale (by decide)
  · exact setWidth_and_mask_eq_zero (BitVec.ofBool s.ctrlEn) (by decide)
  · rw [performMove, hostAccess, guardAccess_busError hoff h]
  · rw [performMove, hostAccess, guardAccess_busError hoff h]

/-- Settles O34: each write is its equation, and the 16-bit registers read back as one. -/
theorem configurationRegistersReadBackAsWritten : Obligations.ConfigurationRegistersReadBackAsWritten := by
  intro s v
  have write := fun r => performMove_hostWrite r v s
  refine ⟨write .calDiv, write .t1h, write .t1l, write .t0h, write .t0l, write .ov1h, write .ov1l, write .ov0h, write .ov0l,
    write .stripLen, write .resNs, fun r hr => ⟨_, performMoves_write_read r r v s, ?_⟩,
    ⟨_, performMoves_write_read .resNs .resNs v s, rfl⟩⟩
  rw [answer_rdata, readReg_writeReg_half hr, BitVec.toNat_setWidth_of_le (by decide), BitVec.toNat_setWidth]

/-- Settles O35, from the equation of a CTRL write. -/
theorem ctrlWriteSetsEnableAndFlushes : Obligations.CtrlWriteSetsEnableAndFlushes := by
  refine ⟨fun s w => ⟨performMove_hostWrite .ctrl w s, ?_, fun hflush => ⟨_, performMoves_write_read .ctrl .status w s, ?_⟩⟩,
    fun s => performMove_engine_disabled, rfl⟩
  · rw [performMove_pureRead (by decide), readReg]
    cases s.ctrlEn <;> rfl
  · have hfifo : (writeReg Config.fifoDepth .ctrl w s).fifo = [] := if_pos hflush
    obtain ⟨-, hempty, -⟩ := statusWord_bits Config.fifoDepth (writeReg Config.fifoDepth .ctrl w s)
    obtain ⟨hcount, -⟩ := statusWord_fields Config.fifoDepth (writeReg Config.fifoDepth .ctrl w s)
    rw [answer_rdata, readReg, hcount, hempty, State.fifoEmpty, hfifo]
    exact ⟨rfl, rfl⟩

end Sys2Proof.Safety
end

section
/-! The order of events and the window's accesses (20_memory.md R61, R62, R68): no move reads or writes the agenda, so the
machine performs the moves of its agenda as a list of moves; a start in the cycle of a host write; and which accesses complete. -/

namespace Sys2Proof.Machine

/-! ## No move reads or writes the agenda -/

/-- The state with another agenda. -/
def setAgenda (ms : List Move) (s : State) : State := { s with agenda := ms }

/-- The outcome with another agenda, where there is a next state. -/
def mapAgenda (ms : List Move) (o : StepResult) : StepResult := thenDo o (fun t => .next (setAgenda ms t))

theorem exec_setAgenda (i : Instr) (ms : List Move) (s : State) : exec i (setAgenda ms s) = mapAgenda ms (exec i s) := by
  have hstart : startError (setAgenda ms s) i = startError s i := startError_congr rfl rfl i
  rw [exec_eq, exec_eq, hstart]
  cases startError s i <;> rfl

theorem startWord_setAgenda (w : Word) (ms : List Move) (s : State) :
    startWord w (setAgenda ms s) = mapAgenda ms (startWord w s) := by
  unfold startWord
  cases decode w with
  | legal i => exact exec_setAgenda i ms s
  | illegal why => rfl

theorem stepIdle_setAgenda (ms : List Move) (s : State) : stepIdle (setAgenda ms s) = mapAgenda ms (stepIdle s) := by
  unfold stepIdle
  have hfifo : (setAgenda ms s).fifo = s.fifo := rfl
  have hen : (setAgenda ms s).ctrlEn = s.ctrlEn := rfl
  rw [hfifo, hen]
  cases s.fifo with
  | nil => rfl
  | cons w queued =>
    dsimp only
    split
    · exact startWord_setAgenda w ms { s with fifo := queued }
    · rfl

theorem stepMicroOp_setAgenda (u : MicroOp) (rest : List MicroOp) (snap : Snapshot) (ms : List Move) (s : State) :
    stepMicroOp u rest snap (setAgenda ms s) = mapAgenda ms (stepMicroOp u rest snap s) := by
  cases u with
  | spin n => match n with
    | 0 | 1 | _ + 2 => rfl
  | tickHold begun t =>
    have htime : (setAgenda ms s).time = s.time := rfl
    simp only [stepMicroOp, stepTickHold, htime]
    split <;> rfl
  | _ => rfl

theorem engineStep_setAgenda (ms : List Move) (s : State) : engineStep (setAgenda ms s) = mapAgenda ms (engineStep s) := by
  cases he : s.engine with
  | idle =>
    rw [engineStep_idle he, engineStep_idle (s := setAgenda ms s) he, stepIdle_setAgenda]
  | exec rem snap =>
    cases rem with
    | nil =>
      rw [engineStep_finish he, engineStep_finish (s := setAgenda ms s) he]
      rfl
    | cons u rest =>
      rw [engineStep_exec he, engineStep_exec (s := setAgenda ms s) he, stepMicroOp_setAgenda]

theorem pushCmd_setAgenda (depth : Nat) (w : Word) (ms : List Move) (s : State) :
    pushCmd depth w (setAgenda ms s) = setAgenda ms (pushCmd depth w s) := by
  have hfifo : (setAgenda ms s).fifo = s.fifo := rfl
  unfold pushCmd
  rw [hfifo]
  split <;> rfl

theorem readOffset_setAgenda (depth off : Nat) (ms : List Move) (s : State) :
    readOffset depth off (setAgenda ms s) = setAgenda ms (readOffset depth off s) := by
  unfold readOffset
  cases Reg.at off with
  | none => rfl
  | some r => cases r <;> rfl

theorem writeOffset_setAgenda (depth off : Nat) (w : Word) (ms : List Move) (s : State) :
    writeOffset depth off w (setAgenda ms s) = setAgenda ms (writeOffset depth off w s) := by
  unfold writeOffset
  cases Reg.at off with
  | none => rfl
  | some r => cases r with
    | cmd => exact pushCmd_setAgenda depth w ms s
    | _ => rfl

theorem guardAccess_setAgenda (addr bytes : Nat) (action : Nat → State) (ms : List Move) :
    guardAccess addr bytes (fun off => setAgenda ms (action off)) = mapAgenda ms (guardAccess addr bytes action) := by
  unfold guardAccess
  split
  · split <;> rfl
  · rfl

theorem hostAccess_setAgenda (a : Access) (ms : List Move) (s : State) :
    hostAccess a (setAgenda ms s) = mapAgenda ms (hostAccess a s) := by
  cases a <;> simp only [hostAccess, readOffset_setAgenda, writeOffset_setAgenda, guardAccess_setAgenda]

/-- No move, whether it completes or stops, reads or writes the agenda. -/
theorem performMove_setAgenda (m : Move) (ms : List Move) (s : State) :
    performMove m (setAgenda ms s) = mapAgenda ms (performMove m s) := by
  cases m with
  | engine => exact engineStep_setAgenda ms s
  | host a => exact hostAccess_setAgenda a ms s
  | pushWithEngine w =>
    simp only [performMove, engineStep_setAgenda]
    cases engineStep s with
    | next t => exact congrArg Host.Outcome.next (pushCmd_setAgenda _ w ms t)
    | fault r => rfl
    | refused r => rfl
  | clearWithEngine w => exact engineStep_setAgenda ms (clearSticky w s)
  | tick | gpioWrite _ | gpioReset | reset => rfl

/-- A step with an agenda performs its first move. -/
theorem step_setAgenda_cons (m : Move) (later : List Move) (s : State) :
    step (setAgenda (m :: later) s) = mapAgenda later (performMove m s) :=
  performMove_setAgenda m later s

/-- A run is a step and the run from there. -/
theorem run_succ (k : Nat) (s : Sys2Proof.core.State) :
    Sys2Proof.core.run (k + 1) s = thenDo (step s) (Sys2Proof.core.run k) := by
  have hstep : Sys2Proof.core.step s = step s := rfl
  rw [Host.Core.run, hstep]
  cases step s <;> rfl

/-- The machine performs its agenda, whatever stands in it, as `performMoves` does. -/
theorem run_setAgenda (ms : List Move) (s : State) :
    Sys2Proof.core.run ms.length (setAgenda ms s) = performMoves ms (setAgenda [] s) := by
  induction ms generalizing s with
  | nil => rfl
  | cons m later ih =>
    refine (run_succ later.length (setAgenda (m :: later) s)).trans ?_
    rw [step_setAgenda_cons, performMoves_cons, performMove_setAgenda]
    cases performMove m s with
    | next t => exact ih t
    | fault r => rfl
    | refused r => rfl

/-! ## A start in the cycle of a host write -/

/-- The start checks of a legal command raise no ERR_OVF (40_engine.md R103). -/
theorem startError_ne_ovf (s : State) (i : Instr) : startError s i ≠ some .ovf := by
  by_cases hvalid : s.maskValid = true <;> by_cases hcal : s.calDiv = 0#16 <;> cases i <;> simp [startError, hvalid, hcal]

/-- The start of a word always completes, and it touches neither the words queued behind it nor ERR_OVF. -/
theorem startWord_keeps_fifo_errOvf (w : Word) (s : State) :
    ∃ t, startWord w s = .next t ∧ t.fifo = s.fifo ∧ t.errOvf = s.errOvf := by
  unfold startWord
  cases decode w with
  | illegal why => exact ⟨_, rfl, rfl, Bool.or_false _⟩
  | legal i =>
    refine ⟨_, exec_eq i s, ?_⟩
    cases he : startError s i with
    | none => exact ⟨rfl, rfl⟩
    | some kind =>
      have hkind : kind ≠ .ovf := fun h => startError_ne_ovf s i (h ▸ he)
      simp [raiseError, hkind]

/-- The start of an illegal word (60_exceptions.md R204). -/
theorem startWord_illegal {w : Word} {why : Illegal} (h : decode w = .illegal why) (s : State) :
    startWord w s = .next (raiseError .cmd w s) := by
  rw [startWord, h]

end Sys2Proof.Machine

namespace Sys2Proof.Safety

open Sys2Proof.Machine

/-- The engine turn of a ready head pops it and starts it (40_engine.md R102). -/
theorem HeadReady.engineStep_eq {s : State} {w : Word} {queued : List Word} (h : HeadReady s w queued) :
    engineStep s = startWord w { s with fifo := queued } := by
  obtain ⟨hidle, hen, hfifo⟩ := h
  simp [engineStep_idle hidle, stepIdle, hfifo, hen]

/-- Settles O39: the pop makes room for the push, and the start of an illegal word sets ERR_CMD after the clear. -/
theorem sameCyclePopFirstAndSetWins : Obligations.SameCyclePopFirstAndSetWins := by
  refine ⟨fun s w v queued hready hfull => ?_, fun s w clear queued why hready hillegal => ?_⟩
  · obtain ⟨t, hstart, hfifo, hovf⟩ := startWord_keeps_fifo_errOvf w { s with fifo := queued }
    have hroom : t.fifo.length < Config.fifoDepth := by
      obtain ⟨-, -, hhead⟩ := hready
      rw [hfifo, ← hfull, hhead, List.length_cons]
      exact Nat.lt_succ_self _
    refine ⟨{ t with fifo := t.fifo ++ [v] }, ?_, by rw [hfifo], hovf⟩
    rw [performMove, hready.engineStep_eq, hstart, thenDo_next, pushCmd, if_pos hroom]
  · have hcleared : HeadReady (clearSticky clear s) w queued := hready
    refine ⟨raiseError .cmd w (clearSticky clear { s with fifo := queued }), ?_, Bool.or_true _⟩
    rw [performMove, hcleared.engineStep_eq, startWord_illegal hillegal]
    rfl

/-- Settles O52: the agenda only says which move comes next, as no move reads or writes it. -/
theorem theAgendaIsPerformedInItsOrder : Obligations.TheAgendaIsPerformedInItsOrder := by
  rintro s ms rfl
  exact run_setAgenda s.agenda s

/-- Settles O32, by the two answers of the guard of every access in the window. -/
theorem onlyAlignedWordAccessesComplete : Obligations.OnlyAlignedWordAccessesComplete := by
  intro s off bytes v hoff
  simp only [performMove, hostAccess]
  refine ⟨fun h => ⟨guardAccess_busError hoff h _, guardAccess_busError hoff h _⟩, ?_⟩
  rintro rfl ha
  exact ⟨⟨_, guardAccess_word hoff ha _⟩, ⟨_, guardAccess_word hoff ha _⟩⟩

end Sys2Proof.Safety
end

section
/-! The encoding (30_encoding.md R81 to R84): a word is laid out in fields, the decoder reads the fields the encoder wrote, and a
row of the opcode map covers the words whose reserved bits are 0. -/

namespace Sys2Proof

open Laws

/-! ## Layouts: a word is its fields, one above the other (R81) -/

/-- The `m + n` bits from bit `s` on are two fields, the upper one from bit `t` on. -/
theorem extract_eq_append_iff {N m n s t : Nat} {w : BitVec N} (hi : BitVec m) (lo : BitVec n) (h : t = s + n) :
    w.extractLsb' s (m + n) = hi ++ lo ↔ w.extractLsb' t m = hi ∧ w.extractLsb' s n = lo := by
  rw [← BitVec.extractLsb'_append_extractLsb'_eq_extractLsb' h]
  refine ⟨fun heq => ⟨?_, ?_⟩, fun ⟨hhi, hlo⟩ => by rw [hhi, hlo]⟩
  · simpa only [BitVec.extractLsb'_append_eq_left] using congrArg (BitVec.extractLsb' n m) heq
  · simpa only [BitVec.extractLsb'_append_eq_right] using congrArg (BitVec.extractLsb' 0 n) heq

/-- Layouts C-none and C-count28: an operation code and 28 bits. -/
theorem append_eq_iff {m n : Nat} {w : BitVec (m + n)} {hi : BitVec m} {lo : BitVec n} :
    hi ++ lo = w ↔ w.extractLsb' n m = hi ∧ w.extractLsb' 0 n = lo := by
  rw [← extract_eq_append_iff hi lo (Nat.zero_add n).symm, BitVec.extractLsb'_eq_self, eq_comm]

/-- Layouts C-pin, C-bit and C-byte: an operation code, reserved bits and one operand. -/
theorem operandWord_eq_iff {n k : Nat} {op : BitVec 4} {zero : BitVec n} {x : BitVec k} {w : BitVec (4 + n + k)} :
    op ++ zero ++ x = w ↔ w.extractLsb' (k + n) 4 = op ∧ w.extractLsb' k n = zero ∧ w.extractLsb' 0 k = x := by
  rw [append_eq_iff, extract_eq_append_iff op zero rfl, and_assoc]

theorem channelsWord_eq_iff {head r g b : Byte} {w : Word} :
    head ++ r ++ g ++ b = w ↔ w.extractLsb' 24 8 = head ∧ fieldR w = r ∧ fieldG w = g ∧ fieldB w = b :=
  calc
    head ++ r ++ g ++ b = w ↔ w.extractLsb' 8 24 = head ++ r ++ g ∧ fieldB w = b := append_eq_iff
    _ ↔ (w.extractLsb' 16 16 = head ++ r ∧ fieldG w = g) ∧ fieldB w = b :=
      and_congr_left' (extract_eq_append_iff (head ++ r) g rfl)
    _ ↔ ((w.extractLsb' 24 8 = head ∧ fieldR w = r) ∧ fieldG w = g) ∧ fieldB w = b :=
      and_congr_left' (and_congr_left' (extract_eq_append_iff head r rfl))
    _ ↔ _ := by rw [and_assoc, and_assoc]

/-- Layout C-rgb. -/
theorem rgbWord_eq_iff {op zero : BitVec 4} {r g b : Byte} {w : Word} :
    op ++ zero ++ r ++ g ++ b = w ↔
      w.extractLsb' 28 4 = op ∧ w.extractLsb' 24 4 = zero ∧ fieldR w = r ∧ fieldG w = g ∧ fieldB w = b :=
  channelsWord_eq_iff.trans (by rw [extract_eq_append_iff op zero rfl, and_assoc])

theorem extract_eq_ofBool_iff {n k : Nat} {w : BitVec n} {b : Bool} :
    w.extractLsb' k 1 = BitVec.ofBool b ↔ w.getLsbD k = b := by
  rw [BitVec.getLsbD_eq_extractLsb']
  generalize w.extractLsb' k 1 = x
  revert b x
  decide

/-- Layout C-show-rgb. -/
theorem showRgbWord_eq_iff {op : BitVec 4} {zero : BitVec 3} {shown : Bool} {r g b : Byte} {w : Word} :
    op ++ zero ++ BitVec.ofBool shown ++ r ++ g ++ b = w ↔ w.extractLsb' 28 4 = op ∧ w.extractLsb' 25 3 = zero ∧
      w.getLsbD 24 = shown ∧ fieldR w = r ∧ fieldG w = g ∧ fieldB w = b := by
  have hhead : w.extractLsb' 24 8 = op ++ zero ++ BitVec.ofBool shown ↔
      (w.extractLsb' 28 4 = op ∧ w.extractLsb' 25 3 = zero) ∧ w.getLsbD 24 = shown :=
    (extract_eq_append_iff (op ++ zero) _ rfl).trans
      (and_congr (extract_eq_append_iff op zero rfl) extract_eq_ofBool_iff)
  rw [← and_assoc, ← and_assoc, ← hhead]
  exact channelsWord_eq_iff

/-! ## The decoder reads what the encoder wrote -/

theorem op_of_encode (i : Instr) : OpField.Statement i := by
  cases i with
  | nop => exact OpField.nop
  | maskinit pin => exact OpField.maskinit pin
  | sendBit bit => exact OpField.sendBit bit
  | sendByte byte => exact OpField.sendByte byte
  | sendPixel r g b => exact OpField.sendPixel r g b
  | setScale scale => exact OpField.setScale scale
  | sendPixelScaled r g b => exact OpField.sendPixelScaled r g b
  | latch => exact OpField.latch
  | fill shown r g b => exact OpField.fill shown r g b
  | fillScaled r g b => exact OpField.fillScaled r g b
  | delayTicks t => exact OpField.delayTicks t
  | waitIters n => exact OpField.waitIters n

theorem extract_op_encode (i : Instr) : (encode i).extractLsb' 28 4 = BitVec.ofNat 4 (OpField.op i) := by
  rw [← op_of_encode, ← Nat.shiftRight_eq_div_pow, BitVec.extractLsb']

theorem extract_op_of_legal {w : Word} {i : Instr} (h : decode w = .legal i) :
    w.extractLsb' 28 4 = BitVec.ofNat 4 (OpField.op i) := by
  apply BitVec.eq_of_toNat_eq
  unfold decode at h
  split at h
  case h_11 hop | h_12 hop => cases h; exact hop
  case h_13 => cases h
  all_goals
    obtain ⟨-, rfl⟩ := (ifZero_legal_iff _ _ _).1 h
    assumption

/-- Under a command's operation code the decoder asks of the other fields what the layout of the command's word says of them. -/
theorem decode_legal_iff_of_op {w : Word} {i : Instr} (hop : w.extractLsb' 28 4 = BitVec.ofNat 4 (OpField.op i)) :
    decode w = .legal i ↔ encode i = w := by
  rw [decode, hop]
  cases i with
  | nop | latch | delayTicks _ | waitIters _ =>
    refine Iff.trans ?_ append_eq_iff.symm
    simp [ifZero_legal_iff, hop, OpField.op]
  | maskinit _ | sendBit _ | sendByte _ | setScale _ =>
    refine Iff.trans ?_ operandWord_eq_iff.symm
    simp [ifZero_legal_iff, hop, OpField.op, extract_eq_ofBool_iff]
  | sendPixel _ _ _ | sendPixelScaled _ _ _ | fillScaled _ _ _ =>
    refine Iff.trans ?_ rgbWord_eq_iff.symm
    simp [ifZero_legal_iff, hop, OpField.op]
  | fill _ _ _ _ =>
    refine Iff.trans ?_ showRgbWord_eq_iff.symm
    simp [ifZero_legal_iff, hop, OpField.op]

/-- The decoder is the inverse of the encoder, in both directions (R83). -/
theorem decode_legal_iff_encode {w : Word} {i : Instr} : decode w = .legal i ↔ encode i = w := by
  refine ⟨fun h => (decode_legal_iff_of_op (extract_op_of_legal h)).1 h, ?_⟩
  rintro rfl
  exact (decode_legal_iff_of_op (extract_op_encode i)).2 rfl

/-- Settles O2, by the fields of each layout. -/
theorem decodingAnEncodedCommandGivesItBack : Obligations.DecodingAnEncodedCommandGivesItBack :=
  fun _ => decode_legal_iff_encode.2 rfl

/-- Settles O3, by the fields of each layout. -/
theorem aLegalWordIsTheEncodingOfItsCommand : Obligations.ALegalWordIsTheEncodingOfItsCommand :=
  fun _ _ => decode_legal_iff_encode.1

/-! ## The opcode map -/

/-- How many low bits of the word each operation code leaves to its operands: the zeros of the column `mask` (R82). -/
def operandWidths : List Nat := [0, 5, 1, 8, 24, 8, 24, 0, 25, 24, 28, 28]

/-- The row of the operation code `op` with `k` bits of operands. -/
def rowWith (op k : Nat) : OpcodeRow := ⟨BitVec.ofNat 32 op <<< 28, BitVec.allOnes 32 <<< k⟩

theorem opcodeMap_eq_rowWith : opcodeMap = operandWidths.mapIdx rowWith := by decide

/-- The bits below the operation code and above the operands are 0. -/
def ReservedZero (k : Nat) (w : Word) : Prop := w.extractLsb' k (28 - k) = 0#(28 - k)

theorem div_eq_op_iff {x op k : Nat} (hk : k ≤ 28) :
    x / 2 ^ k = op * 2 ^ (28 - k) ↔ x / 2 ^ 28 = op ∧ x / 2 ^ k % 2 ^ (28 - k) = 0 := by
  rw [← pow_mul_pow_sub 2 hk, ← Nat.div_div_eq_div_mul, Nat.div_mod_unique (Nat.two_pow_pos _), Nat.zero_add,
    mul_comm op, eq_comm]
  exact (and_iff_left (Nat.two_pow_pos _)).symm

theorem rowWith_covers_iff_div {op k : Nat} (hop : op < 16) (hk : k ≤ 28) (w : Word) :
    (rowWith op k).covers w = true ↔ w.toNat / 2 ^ k = op * 2 ^ (28 - k) := by
  have hlow : w.toNat / 2 ^ k * 2 ^ k < 2 ^ 32 := (Nat.div_mul_le_self _ _).trans_lt w.isLt
  have hhigh : op * 2 ^ 28 < 2 ^ 32 := by omega
  rw [OpcodeRow.covers, beq_iff_eq, rowWith, ← BitVec.shiftLeft_ushiftRight, ← BitVec.toNat_inj]
  simp only [BitVec.toNat_shiftLeft, BitVec.toNat_ushiftRight, BitVec.toNat_ofNat, Nat.shiftLeft_eq,
    Nat.shiftRight_eq_div_pow, Nat.mod_eq_of_lt hlow, Nat.mod_eq_of_lt (show op < 2 ^ 32 by omega), Nat.mod_eq_of_lt hhigh]
  rw [← pow_sub_mul_pow 2 hk, ← mul_assoc]
  exact Nat.mul_left_inj (Nat.two_pow_pos k).ne'

theorem rowWith_covers_iff {op k : Nat} (hop : op < 16) (hk : k ≤ 28) (w : Word) :
    (rowWith op k).covers w = true ↔ (w.extractLsb' 28 4).toNat = op ∧ ReservedZero k w := by
  rw [rowWith_covers_iff_div hop hk, div_eq_op_iff hk, ReservedZero, ← BitVec.toNat_inj, extract_toNat, extract_toNat,
    Nat.mod_eq_of_lt (show w.toNat / 2 ^ 28 < 2 ^ 4 by omega)]
  simp

theorem rowWith_covers_iff_of_width {op k : Nat} (h : operandWidths[op]? = some k) (w : Word) :
    (rowWith op k).covers w = true ↔ (w.extractLsb' 28 4).toNat = op ∧ ReservedZero k w := by
  have hwidths : ∀ k ∈ operandWidths, k ≤ 28 := by decide
  obtain ⟨hop, rfl⟩ := List.getElem?_eq_some_iff.1 h
  exact rowWith_covers_iff (hop.trans (by decide)) (hwidths _ (List.getElem_mem hop)) w

theorem exists_row_covers_iff (w : Word) : (∃ row ∈ opcodeMap, row.covers w = true) ↔
    ∃ k, operandWidths[(w.extractLsb' 28 4).toNat]? = some k ∧ ReservedZero k w := by
  simp only [opcodeMap_eq_rowWith, List.mem_iff_getElem?, List.getElem?_mapIdx, Option.map_eq_some_iff]
  constructor
  · rintro ⟨_, ⟨op, k, hk, rfl⟩, hcovers⟩
    obtain ⟨rfl, hzero⟩ := (rowWith_covers_iff_of_width hk w).1 hcovers
    exact ⟨k, hk, hzero⟩
  · rintro ⟨k, hk, hzero⟩
    exact ⟨_, ⟨_, k, hk, rfl⟩, (rowWith_covers_iff_of_width hk w).2 ⟨rfl, hzero⟩⟩

theorem exists_ifZero_legal_iff {n : Nat} {reserved : BitVec n} {i : Instr} :
    (∃ j, Decoded.ifZero reserved i = .legal j) ↔ reserved = 0#n := by
  simp [ifZero_legal_iff]

theorem exists_decode_legal_iff (w : Word) : (∃ i, decode w = .legal i) ↔
    ∃ k, operandWidths[(w.extractLsb' 28 4).toNat]? = some k ∧ ReservedZero k w := by
  unfold decode
  split
  case h_13 =>
    simp only [imp_false] at *
    rw [List.getElem?_eq_none (show 12 ≤ _ by omega)]
    simp
  all_goals
    rename_i hop
    simp [hop, exists_ifZero_legal_iff, operandWidths, ReservedZero]

theorem extract_op_of_covers {row : OpcodeRow} {w : Word} (hrow : row ∈ opcodeMap) (h : row.covers w = true) :
    row.pattern.extractLsb' 28 4 = w.extractLsb' 28 4 := by
  have hmask : ∀ row ∈ opcodeMap, row.mask.extractLsb' 28 4 = BitVec.allOnes 4 := by decide
  rw [← beq_iff_eq.1 h, BitVec.extractLsb'_and, hmask row hrow, BitVec.and_allOnes]

/-- No two rows have one operation code, and a row that covers a word has the word's. -/
theorem length_filter_covers_le_one (w : Word) : (opcodeMap.filter (fun row => row.covers w)).length ≤ 1 := by
  have hdistinct : (opcodeMap.map (fun row => row.pattern.extractLsb' 28 4)).Nodup := by decide
  calc (opcodeMap.filter (fun row => row.covers w)).length
      = opcodeMap.countP (fun row => row.covers w) := List.countP_eq_length_filter.symm
    _ ≤ opcodeMap.countP (fun row => row.pattern.extractLsb' 28 4 == w.extractLsb' 28 4) :=
      List.countP_mono_left fun _ hrow h => beq_iff_eq.2 (extract_op_of_covers hrow h)
    _ = (opcodeMap.map (fun row => row.pattern.extractLsb' 28 4)).count (w.extractLsb' 28 4) := by
      rw [List.count, List.countP_map]
      rfl
    _ ≤ 1 := List.nodup_iff_count_le_one.1 hdistinct _

/-- Settles O4: a word is legal, and covered by a row, exactly if its reserved bits are 0. -/
theorem aWordIsLegalExactlyWhenOneOpcodeRowCoversIt : Obligations.AWordIsLegalExactlyWhenOneOpcodeRowCoversIt :=
  fun w => ⟨length_filter_covers_le_one w, (exists_decode_legal_iff w).trans (exists_row_covers_iff w).symm⟩

end Sys2Proof
end

section
/-! The assembler (30_encoding.md R86, R87): the words of a line as numbers, and the lines it refuses. -/

namespace Sys2Proof

/-! ## The operand ranges (R81) -/

theorem fitsBit_iff {n : Nat} : fitsBit n = true ↔ n < 2 := decide_eq_true_iff

theorem fitsPin_iff {n : Nat} : fitsPin n = true ↔ n < 32 := decide_eq_true_iff

theorem fitsByte_iff {n : Nat} : fitsByte n = true ↔ n < 256 := decide_eq_true_iff

theorem fitsCount_iff {n : Nat} : fitsCount n = true ↔ n < 2 ^ 28 := decide_eq_true_iff

theorem fitsPixel_iff {r g b : Nat} : fitsPixel r g b = true ↔ r < 256 ∧ g < 256 ∧ b < 256 := by
  rw [fitsPixel, Bool.and_eq_true, Bool.and_eq_true, fitsByte_iff, fitsByte_iff, fitsByte_iff, and_assoc]

theorem fitsPixel_eq_false_iff {r g b : Nat} : fitsPixel r g b = false ↔ 256 ≤ r ∨ 256 ≤ g ∨ 256 ≤ b := by
  rw [← Bool.not_eq_true, fitsPixel_iff]
  omega

/-! ## The words of a line -/

/-- The words of a line as sums of shifted operands, by the tables of R86 and R87. -/
def AsmLine.numbers : AsmLine → List Nat
  | .nop => [0x00000000]
  | .maskinit pin => [0x10000000 + pin]
  | .sendBit b => [0x20000000 + b]
  | .sendByte x => [0x30000000 + x]
  | .sendPixel r g b => [0x40000000 + r * 2 ^ 16 + g * 2 ^ 8 + b]
  | .setScale s => [0x50000000 + s]
  | .sendPixelScaled r g b => [0x60000000 + r * 2 ^ 16 + g * 2 ^ 8 + b]
  | .latch => [0x70000000]
  | .fill r g b shown => [0x80000000 + shown * 2 ^ 24 + r * 2 ^ 16 + g * 2 ^ 8 + b]
  | .fillScaled r g b => [0x90000000 + r * 2 ^ 16 + g * 2 ^ 8 + b]
  | .delayTicks t => [0xA0000000 + t]
  | .waitIters n => [0xB0000000 + n]
  | .clear shown => [0x80000000 + shown * 2 ^ 24]
  | .sendPixelScaledBy r g b s => [0x50000000 + s, 0x60000000 + r * 2 ^ 16 + g * 2 ^ 8 + b]
  | .fillScaledBy r g b s => [0x50000000 + s, 0x90000000 + r * 2 ^ 16 + g * 2 ^ 8 + b]

theorem toNat_beq_one {n : Nat} (h : n < 2) : (n == 1).toNat = n := by
  interval_cases n <;> rfl

/-- An operand in its range is not changed by the width of its field. -/
theorem encodeNat_commands {line : AsmLine} (h : line.wellFormed = true) : line.commands.map encodeNat = line.numbers := by
  cases line with
  | nop | latch => rfl
  | maskinit _ => simp [AsmLine.commands, encodeNat, AsmLine.numbers, Nat.mod_eq_of_lt (fitsPin_iff.1 h)]
  | sendBit _ | clear _ => simp [AsmLine.commands, encodeNat, AsmLine.numbers, toNat_beq_one (fitsBit_iff.1 h)]
  | sendByte _ | setScale _ => simp [AsmLine.commands, encodeNat, AsmLine.numbers, Nat.mod_eq_of_lt (fitsByte_iff.1 h)]
  | delayTicks n | waitIters n =>
    have hn : n < 268435456 := fitsCount_iff.1 h
    simp [AsmLine.commands, encodeNat, AsmLine.numbers, Nat.mod_eq_of_lt hn]
  | sendPixel _ _ _ | sendPixelScaled _ _ _ | fillScaled _ _ _ =>
    obtain ⟨hr, hg, hb⟩ := fitsPixel_iff.1 h
    simp [AsmLine.commands, encodeNat, AsmLine.numbers, Nat.mod_eq_of_lt, hr, hg, hb]
  | fill _ _ _ _ =>
    obtain ⟨hrgb, hshown⟩ := Bool.and_eq_true_iff.1 h
    obtain ⟨hr, hg, hb⟩ := fitsPixel_iff.1 hrgb
    simp [AsmLine.commands, encodeNat, AsmLine.numbers, Nat.mod_eq_of_lt, hr, hg, hb, toNat_beq_one (fitsBit_iff.1 hshown)]
  | sendPixelScaledBy _ _ _ _ | fillScaledBy _ _ _ _ =>
    obtain ⟨hrgb, hs⟩ := Bool.and_eq_true_iff.1 h
    obtain ⟨hr, hg, hb⟩ := fitsPixel_iff.1 hrgb
    simp [AsmLine.commands, encodeNat, AsmLine.numbers, Nat.mod_eq_of_lt, hr, hg, hb, fitsByte_iff.1 hs]

theorem encode_eq_ofNat (i : Instr) : encode i = BitVec.ofNat 32 (encodeNat i) := by
  rw [← encode_toNat, BitVec.ofNat_toNat, BitVec.setWidth_eq]

theorem assemble_eq_numbers {line : AsmLine} (h : line.wellFormed = true) :
    assemble line = some (line.numbers.map (BitVec.ofNat 32)) := by
  rw [assemble, if_pos h, ← encodeNat_commands h, List.map_map, funext encode_eq_ofNat]
  rfl

theorem assemble_eq_none {line : AsmLine} (h : line.wellFormed = false) : assemble line = none := by
  rw [assemble, h]
  rfl

/-- Settles O5: the clauses in the order of the statement, each by the range of its operands. -/
theorem assemblerBuildsTheWordsOfTheTable : Obligations.AssemblerBuildsTheWordsOfTheTable := by
  refine ⟨fun r g b hr hg hb => ?_, assemble_eq_numbers rfl, assemble_eq_numbers rfl,
    fun n hn => assemble_eq_numbers (fitsPin_iff.2 hn), fun n hn => ?_, fun n hn => ?_, fun n hn => ?_,
    fun n hn => assemble_eq_none (decide_eq_false hn.not_gt), fun n hn => ?_, fun n hn => ?_, fun n hn => ?_,
    fun r g b h => ?_⟩
  · have hrgb := fitsPixel_iff.2 ⟨hr, hg, hb⟩
    exact ⟨assemble_eq_numbers hrgb, assemble_eq_numbers hrgb, assemble_eq_numbers hrgb,
      fun s hs =>
        have hboth := Bool.and_eq_true_iff.2 ⟨hrgb, fitsByte_iff.2 hs⟩
        ⟨assemble_eq_numbers hboth, assemble_eq_numbers hboth⟩,
      fun v hv => assemble_eq_numbers (Bool.and_eq_true_iff.2 ⟨hrgb, fitsBit_iff.2 hv⟩)⟩
  · have hbit := fitsBit_iff.2 hn
    exact ⟨assemble_eq_numbers hbit, assemble_eq_numbers hbit⟩
  · have hbyte := fitsByte_iff.2 hn
    exact ⟨assemble_eq_numbers hbyte, assemble_eq_numbers hbyte⟩
  · have hcount := fitsCount_iff.2 hn
    exact ⟨assemble_eq_numbers hcount, assemble_eq_numbers hcount⟩
  · have hbyte : fitsByte n = false := decide_eq_false hn.not_gt
    exact ⟨assemble_eq_none hbyte, assemble_eq_none hbyte, fun r g b =>
      have heither {p : Bool} : (p && fitsByte n) = false := Bool.and_eq_false_iff.2 (.inr hbyte)
      ⟨assemble_eq_none heither, assemble_eq_none heither⟩⟩
  · have hcount : fitsCount n = false := decide_eq_false hn.not_gt
    exact ⟨assemble_eq_none hcount, assemble_eq_none hcount⟩
  · have hbit : fitsBit n = false := decide_eq_false hn.not_gt
    exact ⟨assemble_eq_none hbit, assemble_eq_none hbit, fun r g b => assemble_eq_none (Bool.and_eq_false_iff.2 (.inr hbit))⟩
  · have hrgb := fitsPixel_eq_false_iff.2 h
    have heither {p : Bool} : (fitsPixel r g b && p) = false := Bool.and_eq_false_iff.2 (.inl hrgb)
    exact ⟨assemble_eq_none hrgb, assemble_eq_none hrgb, assemble_eq_none hrgb, fun n =>
      ⟨assemble_eq_none heither, assemble_eq_none heither, assemble_eq_none heither⟩⟩

end Sys2Proof
end

section
/-! The engine's step on the head of the FIFO and of the command in progress (40_engine.md R101, R102, R110 to R114): its
equations for Spin and TickHold, where the engine holds, and where it moves. -/

namespace Sys2Proof.Machine

section
variable {s : State} {rest : List MicroOp} {snap : Snapshot}

theorem engineStep_spin {n : Nat} (h : s.engine = .exec (.spin n :: rest) snap) (hn : 1 ≤ n) :
    engineStep s =
      .next (setEngine (if n = 1 then .exec rest snap else .exec (.spin (n - 1) :: rest) snap) (record .iter s)) :=
  (engineStep_exec h).trans (stepSpin_eq hn rest snap s)

theorem engineStep_tickHold_elapsed {start t : Ticks} (h : s.engine = .exec (.tickHold start t :: rest) snap)
    (helapsed : elapsedAtLeast s.time start t = true) :
    engineStep s = .next (setEngine (.exec rest snap) (record (.tickHold start t s.time) s)) :=
  (engineStep_exec h).trans (if_pos helapsed)

theorem engineStep_tickHold_waits {start t : Ticks} (h : s.engine = .exec (.tickHold start t :: rest) snap)
    (hwaits : elapsedAtLeast s.time start t = false) : engineStep s = .next s :=
  (engineStep_exec h).trans (if_neg (by simp [hwaits]))

theorem engineEnabled_idle (h : s.engine = .idle) : engineEnabled s = (s.ctrlEn && !s.fifo.isEmpty) := by
  simp [engineEnabled, h]

theorem engineEnabled_tickHold {start t : Ticks} (h : s.engine = .exec (.tickHold start t :: rest) snap) :
    engineEnabled s = elapsedAtLeast s.time start t := by
  simp [engineEnabled, h]

end

/-- The predicate of R221 on numbers. -/
theorem elapsedAtLeast_iff (now start t : Ticks) :
    elapsedAtLeast now start t = true ↔ t.toNat ≤ (now.toNat + 2 ^ 64 - start.toNat) % 2 ^ 64 := by
  have := start.isLt
  rw [elapsedAtLeast, decide_eq_true_iff, BitVec.le_def, BitVec.toNat_sub]
  rw [show 2 ^ 64 - start.toNat + now.toNat = now.toNat + 2 ^ 64 - start.toNat by omega]

end Sys2Proof.Machine

namespace Sys2Proof.Safety

open Sys2Proof.Machine

/-- A command in progress has a step whatever the count is, unless its head is a hold (40_engine.md R101). -/
theorem always_enabled_or_tickHold {e : Engine} (hbusy : e ≠ .idle) :
    (∀ s : State, s.engine = e → engineEnabled s = true) ∨
    ∃ start t rest snap, e = .exec (.tickHold start t :: rest) snap := by
  match e with
  | .idle => exact absurd rfl hbusy
  | .exec [] snap => exact .inl fun s h => by simp [engineEnabled, h]
  | .exec (u :: rest) snap =>
    cases u with
    | tickHold start t => exact .inr ⟨start, t, rest, snap, rfl⟩
    | _ => exact .inl fun s h => by simp [engineEnabled, h]

/-- Where R101 gives the engine no step, it holds. -/
theorem engineStep_disabled {s : State} (h : engineEnabled s = false) : engineStep s = .next s := by
  cases he : s.engine with
  | idle =>
    rw [engineStep_idle he]
    obtain ⟨hholds, -⟩ | ⟨w, queued, hfifo, hen, -⟩ := stepIdle_cases s
    · exact hholds
    · simp [engineEnabled_idle he, hen, hfifo] at h
  | exec rem snap =>
    cases rem with
    | nil => simp [engineEnabled, he] at h
    | cons u rest =>
      cases u with
      | tickHold start t => exact engineStep_tickHold_waits he (engineEnabled_tickHold he ▸ h)
      | _ => simp [engineEnabled, he] at h

theorem log_length_startWord {w : Word} {s t : State} (h : startWord w s = .next t) : t.log.length = s.log.length + 1 := by
  obtain ⟨kind, hw⟩ | ⟨i, -, hw | hw | ⟨-, hw⟩⟩ := startWord_cases w s <;> rw [hw] at h <;> cases h <;>
    simp [raiseError, beginCommand]

theorem ne_of_log_append {s t : State} {e : LogEvent} (h : t.log = s.log ++ [e]) : t ≠ s := by
  rintro rfl
  simp at h

theorem ne_of_engine_ne {s t : State} (h : t.engine ≠ s.engine) : t ≠ s := fun hts => h (congrArg State.engine hts)

/-- Where R101 gives the engine a step that completes, the step changes the state: it logs an event or moves the engine on. -/
theorem engineStep_enabled_ne {s t : State} (hen : engineEnabled s = true) (h : engineStep s = .next t) : t ≠ s := by
  cases he : s.engine with
  | idle =>
    rw [engineStep_idle he] at h
    obtain ⟨-, hoff | hempty⟩ | ⟨w, queued, -, -, hstart⟩ := stepIdle_cases s
    · simp [engineEnabled_idle he, hoff] at hen
    · simp [engineEnabled_idle he, hempty] at hen
    · rintro rfl
      have := log_length_startWord (hstart.symm.trans h)
      simp at this
  | exec rem snap =>
    cases rem with
    | nil =>
      cases (engineStep_finish he).symm.trans h
      exact ne_of_engine_ne (by simp [he])
    | cons u rest =>
      have hstep := (engineStep_exec he).symm.trans h
      cases u with
      | spin n =>
        rcases Nat.eq_zero_or_pos n with rfl | hn
        · cases hstep
        · cases (engineStep_spin he hn).symm.trans h
          exact ne_of_log_append (e := .iter) rfl
      | tickHold start t =>
        cases (engineStep_tickHold_elapsed he (engineEnabled_tickHold he ▸ hen)).symm.trans h
        exact ne_of_log_append (e := .tickHold start t s.time) rfl
      | tickWait t =>
        cases hstep
        exact ne_of_engine_ne (by simp [he])
      | drive v => cases hstep; exact ne_of_log_append (e := .drive v) rfl
      | setScale v => cases hstep; exact ne_of_log_append (e := .scale v) rfl
      | maskCapture pin => cases hstep; exact ne_of_log_append (e := .mask _ _) rfl

/-- In a good state the engine's step completes: no Spin is left without an iteration (40_engine.md R111). -/
theorem engineStep_completes {s : State} (hs : EngineInv s.engine) : Completes (engineStep s) := by
  cases he : s.engine with
  | idle =>
    rw [engineStep_idle he]
    obtain ⟨hholds, -⟩ | ⟨w, queued, -, -, hstart⟩ := stepIdle_cases s
    · exact ⟨s, hholds⟩
    · obtain ⟨t, ht, -⟩ := startWord_keeps_fifo_errOvf w { s with fifo := queued }
      exact ⟨t, hstart.trans ht⟩
  | exec rem snap =>
    cases rem with
    | nil => exact ⟨_, engineStep_finish he⟩
    | cons u rest =>
      obtain ⟨hok, -⟩ := he ▸ hs
      cases u with
      | spin n => exact ⟨_, engineStep_spin he (hok _ (.head rest))⟩
      | tickHold start t =>
        by_cases helapsed : elapsedAtLeast s.time start t = true
        · exact ⟨_, engineStep_tickHold_elapsed he helapsed⟩
        · exact ⟨_, engineStep_tickHold_waits he (by simpa using helapsed)⟩
      | _ => exact ⟨_, engineStep_exec he⟩

/-- Spin(n) performed to its end, one iteration a step. -/
theorem performMoves_spin {n : Nat} {rest : List MicroOp} {snap : Snapshot} (hn : 1 ≤ n) {s : State}
    (h : s.engine = .exec (.spin n :: rest) snap) :
    performMoves (List.replicate n .engine) s =
      .next { s with log := s.log ++ List.replicate n .iter, engine := .exec rest snap } := by
  induction n, hn using Nat.le_induction generalizing s with
  | base =>
    rw [List.replicate_one, performMoves_cons, performMove, engineStep_spin h (Nat.le_refl 1)]
    rfl
  | succ n hn ih =>
    have hstep := engineStep_spin h (Nat.le_succ_of_le hn)
    rw [if_neg (by omega)] at hstep
    rw [List.replicate_succ, performMoves_cons, performMove, hstep, thenDo_next, ih rfl]
    simp [record, setEngine, List.replicate_succ]

/-- Settles O23, by the iterations of Spin one after another. -/
theorem spinTakesOneStepPerIteration : Obligations.SpinTakesOneStepPerIteration :=
  fun _ _ _ _ h hn => ⟨engineStep_spin h hn, performMoves_spin hn h⟩

/-- Settles O27: the engine holds where R101 gives it no step, and each step it gives changes the state. -/
theorem theEngineMovesExactlyWhenItHasAStep : Obligations.TheEngineMovesExactlyWhenItHasAStep := by
  refine ⟨fun s => engineStep_disabled, fun s hs hen => ?_, fun s snap => engineStep_finish⟩
  obtain ⟨-, -, hengine⟩ := hs
  obtain ⟨t, ht⟩ := engineStep_completes hengine
  exact ⟨t, ht, engineStep_enabled_ne hen ht⟩

/-- Settles O6: the engine turn of a ready head starts the command it decodes to. -/
theorem aStepRunsTheDecodedHeadOfTheFifo : Obligations.AStepRunsTheDecodedHeadOfTheFifo := by
  intro s w queued later i hready hagenda hdecode
  have hready' : HeadReady { s with agenda := later } w queued := hready
  rw [step, scheduledStep, hagenda]
  refine hready'.engineStep_eq.trans ?_
  rw [startWord, hdecode]

/-- Settles O22: a Drive leaves the masks, and so LINE_PIN, as they were. -/
theorem driveWritesGpioWhole : Obligations.DriveWritesGpioWhole := by
  intro s v rest snap h
  refine ⟨engineStep_exec h, fun hs => ?_, fun t ht => ?_⟩
  · obtain ⟨-, -, hengine⟩ := hs
    rw [h] at hengine
    obtain ⟨hmask, -⟩ : MicroOpOk snap (.drive v) := hengine.1 _ (.head rest)
    exact hmask
  · cases (engineStep_exec h).symm.trans ht
    rfl

/-- Settles O24, by the equation of TickWait. -/
theorem tickWaitSamplesTime : Obligations.TickWaitSamplesTime := fun _ _ _ _ h => engineStep_exec h

/-- Settles O25, by the two equations of TickHold. -/
theorem tickHoldEndsOnceElapsed : Obligations.TickHoldEndsOnceElapsed := by
  intro s start t rest snap h
  refine ⟨fun hended => engineStep_tickHold_elapsed h ((elapsedAtLeast_iff _ _ _).mpr hended), fun hwaits =>
    engineStep_tickHold_waits h (Bool.eq_false_iff.mpr fun helapsed => ?_)⟩
  exact absurd ((elapsedAtLeast_iff _ _ _).mp helapsed) hwaits.not_ge

end Sys2Proof.Safety
end

section
/-! The arithmetic of the commands (40_engine.md R105, R109): iteration counts and scaled channels as numbers. -/

namespace Sys2Proof.Machine

/-- `satsub` is the subtraction of natural numbers (00_scope.md R14). -/
theorem satsub_eq (a b : Nat) : satsub a b = a - b := by
  unfold satsub
  split <;> omega

theorem iterations_eq (duration correction calDiv : Half) : iterations duration correction calDiv =
    max 1 ((duration.toNat - correction.toNat) / calDiv.toNat) := by
  rw [iterations, satsub_eq]

theorem iterations_range (duration correction calDiv : Half) :
    1 ≤ iterations duration correction calDiv ∧ iterations duration correction calDiv ≤ 65535 := by
  have hdiv := Nat.div_le_self (duration.toNat - correction.toNat) calDiv.toNat
  have hduration := duration.isLt
  rw [iterations_eq]
  omega

/-- The quotient of R109 is no brighter than the channel. -/
theorem scaled_quotient_le (c s : Byte) : c.toNat * s.toNat / 255 ≤ c.toNat := by
  refine Nat.div_le_of_le_mul ?_
  rw [Nat.mul_comm 255]
  exact Nat.mul_le_mul_left _ (Nat.le_of_lt_succ s.isLt)

theorem scale8_toNat (c s : Byte) : (scale8 c s).toNat =
    if s = 0#8 then 0 else if c.toNat * s.toNat / 255 = 0 ∧ c ≠ 0#8 then 1 else c.toNat * s.toNat / 255 := by
  have hfits : c.toNat * s.toNat / 255 < 2 ^ 8 := (scaled_quotient_le c s).trans_lt c.isLt
  rw [scale8]
  split
  · rfl
  · split
    · rfl
    · rw [BitVec.toNat_ofNat, Nat.mod_eq_of_lt hfits]

end Sys2Proof.Machine

namespace Sys2Proof.Safety

open Sys2Proof.Machine

/-- Settles O28: all four counts are one function of a duration, its correction and CAL_DIV. -/
theorem iterationCountsAreClampedFloors : Obligations.IterationCountsAreClampedFloors := by
  refine fun snap _ => ⟨iterations_eq _ _ _, iterations_eq _ _ _, iterations_eq _ _ _, iterations_eq _ _ _, fun b => ?_⟩
  cases b <;> exact ⟨iterations_range _ _ _, iterations_range _ _ _⟩

/-- Settles O29: the laws follow from the number of R109 and its bound. -/
theorem scalingRoundsDownAndKeepsNonzero : Obligations.ScalingRoundsDownAndKeepsNonzero := by
  intro c s
  have hle := scaled_quotient_le c s
  have hpos : c ≠ 0#8 → 1 ≤ c.toNat := fun hc => Nat.pos_of_ne_zero fun h => hc (BitVec.eq_of_toNat_eq h)
  refine ⟨scale8_toNat c s, BitVec.eq_of_toNat_eq ?_, BitVec.eq_of_toNat_eq ?_, ?_, fun hc hs => ?_⟩
  · have hfull : c.toNat * 255 / 255 = c.toNat := Nat.mul_div_cancel _ (by decide)
    rw [scale8_toNat, if_neg (by decide), show (255#8).toNat = 255 from rfl, hfull]
    exact if_neg fun ⟨hzero, hc⟩ => absurd (hpos hc) (by omega)
  · rw [scale8_toNat]
    simp
  · rw [BitVec.le_def, scale8_toNat]
    split_ifs with hs hone
    · exact Nat.zero_le _
    · exact hpos hone.2
    · exact hle
  · rw [scale8_toNat, if_neg hs]
    split_ifs with hone
    · exact Nat.le_refl 1
    · exact Nat.pos_of_ne_zero fun hzero => hone ⟨hzero, hc⟩

end Sys2Proof.Safety
end

section
/-! A command in progress, seen by what is left of it: the waveform still to come, the level it will leave the line at, and the
steps to its finish (40_engine.md R114, R115). Each engine step hands on the first two and lowers the third. -/

namespace Sys2Proof.Safety

open Sys2Proof.Machine

/-! ## The waveform -/

/-- The waveform the command in progress has still to make. -/
def waveLeft : Engine → List WaveEvent
  | .idle => []
  | .exec rem _ => waveOf rem

@[simp] theorem waveLeft_idle : waveLeft .idle = [] := rfl

@[simp] theorem waveLeft_exec (rem : List MicroOp) (snap : Snapshot) : waveLeft (.exec rem snap) = waveOf rem := rfl

/-- From `s` to `t` the log has got events whose waveform, before what is left at `t`, is what was left at `s`, and each hold
among them lasted its ticks. -/
def PerformsWave (s t : State) : Prop :=
  ∃ es, t.log = s.log ++ es ∧ untimed es ++ waveLeft t.engine = waveLeft s.engine ∧
    ∀ start ticks finish, LogEvent.tickHold start ticks finish ∈ es → elapsedAtLeast finish start ticks = true

theorem PerformsWave.of_eq {s t : State} (hlog : t.log = s.log) (hwave : waveLeft t.engine = waveLeft s.engine) :
    PerformsWave s t :=
  ⟨[], by simp [hlog], by simp [hwave], nofun⟩

theorem PerformsWave.of_event {s t : State} {e : LogEvent} (hlog : t.log = s.log ++ [e])
    (hwave : waveEvent e ++ waveLeft t.engine = waveLeft s.engine)
    (hhold : ∀ start ticks finish, e = .tickHold start ticks finish → elapsedAtLeast finish start ticks = true) :
    PerformsWave s t :=
  ⟨[e], hlog, by simpa using hwave, fun start ticks finish h => hhold start ticks finish (List.mem_singleton.mp h).symm⟩

theorem PerformsWave.trans {s t u : State} (hst : PerformsWave s t) (htu : PerformsWave t u) : PerformsWave s u := by
  obtain ⟨es, hes, hs, hsHolds⟩ := hst
  obtain ⟨fs, hfs, ht, htHolds⟩ := htu
  refine ⟨es ++ fs, by rw [hfs, hes, List.append_assoc], by rw [untimed_append, List.append_assoc, ht, hs], ?_⟩
  exact fun start ticks finish h => (List.mem_append.mp h).elim (hsHolds _ _ _) (htHolds _ _ _)

/-- An engine step of a command in progress makes the first event of what was left, or none. -/
theorem engineStepTo_performsWave {s t : State} (h : EngineStepTo s t) (hbusy : s.engine ≠ .idle) : PerformsWave s t := by
  cases h with
  | hold => exact .of_eq rfl rfl
  | refuse w queued kind idle => exact absurd idle hbusy
  | start w queued i idle => exact absurd idle hbusy
  | refuseLegal w queued i kind idle => exact absurd idle hbusy
  | drive v rest snap head => exact .of_event (e := .drive v) rfl (by simp [head, waveEvent, waveOfMicroOp]) nofun
  | spin n rest snap pos head =>
    refine .of_event (e := .iter) rfl ?_ nofun
    obtain ⟨k, rfl⟩ : ∃ k, n = k + 1 := ⟨n - 1, by omega⟩
    rcases Nat.eq_zero_or_pos k with rfl | hk
    · simp [head, waveEvent, waveOfMicroOp]
    · simp [head, waveEvent, waveOfMicroOp, hk.ne', List.replicate_succ]
  | tickWait t rest snap head => exact .of_eq rfl (by simp [head, waveOfMicroOp])
  | tickHold begun t rest snap head elapsed =>
    refine .of_event (e := .tickHold begun t s.time) rfl (by simp [head, waveEvent, waveOfMicroOp]) ?_
    rintro _ _ _ ⟨⟩
    exact elapsed
  | setScale v rest snap head => exact .of_event (e := .scale v) rfl (by simp [head, waveEvent, waveOfMicroOp]) nofun
  | maskCapture pin rest snap head => exact .of_event (e := .mask _ _) rfl (by simp [head, waveEvent, waveOfMicroOp]) nofun
  | finish snap head => exact .of_eq rfl (by simp [head])

theorem pushCmd_performsWave (depth : Nat) (w : Word) (s : State) : PerformsWave s (pushCmd depth w s) := by
  obtain ⟨-, h⟩ | ⟨-, h⟩ := pushCmd_cases depth w s <;> rw [h]
  · exact .of_eq rfl rfl
  · exact .of_event (e := .error .ovf w) rfl rfl nofun

theorem writeReg_performsWave (depth : Nat) (r : Reg) (w : Word) (s : State) : PerformsWave s (writeReg depth r w s) := by
  cases r with
  | cmd => exact pushCmd_performsWave depth w s
  | _ => exact .of_eq rfl rfl

theorem readEffect_performsWave (r : Reg) (s : State) : PerformsWave s (readEffect r s) := by
  unfold readEffect
  split <;> exact .of_eq rfl rfl

/-- Whatever moves beside a command in progress, but a reset: only its own steps make its waveform. -/
theorem performMove_performsWave {m : Move} {s t : State} (h : performMove m s = .next t) (hreset : m ≠ .reset)
    (hbusy : s.engine ≠ .idle) : PerformsWave s t := by
  cases m with
  | engine => exact engineStepTo_performsWave (engineStep_next h) hbusy
  | host a =>
    obtain ⟨r, -, rfl⟩ | rfl | ⟨r, v, -, rfl⟩ | rfl := hostAccess_next h
    · exact (readEffect_performsWave r s).trans (.of_eq rfl rfl)
    · exact .of_eq rfl rfl
    · exact writeReg_performsWave _ r v s
    · exact .of_eq rfl rfl
  | pushWithEngine w =>
    obtain ⟨mid, hs, hp⟩ := thenDo_eq_next.mp h
    cases hp
    exact (engineStepTo_performsWave (engineStep_next hs) hbusy).trans (pushCmd_performsWave _ w mid)
  | clearWithEngine w =>
    have hcleared : PerformsWave s (clearSticky w s) := .of_eq rfl rfl
    exact hcleared.trans (engineStepTo_performsWave (engineStep_next h) hbusy)
  | reset => exact absurd rfl hreset
  | tick => cases h; exact .of_eq rfl rfl
  | gpioWrite v => cases h; exact .of_eq rfl rfl
  | gpioReset => cases h; exact .of_eq rfl rfl

theorem FinishesBy.performsWave {ms : List Move} {s t : State} (h : FinishesBy ms s t) (hreset : Move.reset ∉ ms) :
    PerformsWave s t ∧ t.engine = .idle := by
  induction ms generalizing s with
  | nil =>
    obtain ⟨hidle, rfl⟩ := h
    exact ⟨.of_eq rfl rfl, hidle⟩
  | cons m ms ih =>
    obtain ⟨hbusy, mid, hm, hms⟩ := h
    obtain ⟨hhead, htail⟩ := not_or.mp (List.mem_cons.not.mp hreset)
    obtain ⟨hwave, hidle⟩ := ih hms htail
    exact ⟨(performMove_performsWave hm (Ne.symm hhead) hbusy).trans hwave, hidle⟩

/-- Settles O53: at the finish nothing is left, so the log has got the waveform that was left before. -/
theorem theWaveformIsFixedWhateverTheInterleaving : Obligations.TheWaveformIsFixedWhateverTheInterleaving := by
  intro s t rem snap ms he hreset hfinish
  obtain ⟨⟨es, hlog, hwave, hholds⟩, hidle⟩ := hfinish.performsWave hreset
  refine ⟨es, hlog, ?_, fun start ticks finish hmem => (elapsedAtLeast_iff _ _ _).mp (hholds _ _ _ hmem)⟩
  simpa [hidle, he] using hwave

/-! ## The steps to the finish, and the line at it -/

/-- How many engine steps a micro-operation takes. -/
def microOpWeight : MicroOp → Nat
  | .spin n => n
  | .tickWait _ => 2
  | .drive _ | .tickHold _ _ | .setScale _ | .maskCapture _ => 1

/-- How many engine steps the command in progress has still to take, its finish included. -/
def engineWeight : Engine → Nat
  | .idle => 0
  | .exec rem _ => (rem.map microOpWeight).sum + 1

/-- The value GPIO_OUT has when the command in progress has finished, if no one else writes it. -/
def lineAtEnd (s : State) : Word :=
  match s.engine with
  | .idle => s.gpioOut
  | .exec rem _ => (lastDrive rem).getD s.gpioOut

theorem lineAtEnd_idle {s : State} (h : s.engine = .idle) : lineAtEnd s = s.gpioOut := by simp [lineAtEnd, h]

theorem lineAtEnd_exec {s : State} {rem : List MicroOp} {snap : Snapshot} (h : s.engine = .exec rem snap) :
    lineAtEnd s = (lastDrive rem).getD s.gpioOut := by
  simp [lineAtEnd, h]

/-- An engine step of a command in progress that changes the state brings its finish nearer. -/
theorem engineStepTo_engineWeight_lt {s t : State} (h : EngineStepTo s t) (hbusy : s.engine ≠ .idle) (hne : t ≠ s) :
    engineWeight t.engine < engineWeight s.engine := by
  cases h with
  | hold => exact absurd rfl hne
  | refuse w queued kind idle => exact absurd idle hbusy
  | start w queued i idle => exact absurd idle hbusy
  | refuseLegal w queued i kind idle => exact absurd idle hbusy
  | spin n rest snap pos head =>
    rw [setEngine_engine]
    split <;> simp [head, engineWeight, microOpWeight] <;> omega
  | _ => simp [engineWeight, microOpWeight, *]

theorem engineStepTo_lineAtEnd {s t : State} (h : EngineStepTo s t) (hbusy : s.engine ≠ .idle) :
    lineAtEnd t = lineAtEnd s := by
  cases h with
  | hold => rfl
  | refuse w queued kind idle => exact absurd idle hbusy
  | start w queued i idle => exact absurd idle hbusy
  | refuseLegal w queued i kind idle => exact absurd idle hbusy
  | spin n rest snap pos head => split <;> simp [lineAtEnd, head, lastDrive]
  | _ => simp [lineAtEnd, lastDrive, *]

/-! ## A way to the finish -/

/-- A number of ticks only moves TIME on (60_exceptions.md R220). -/
theorem performMoves_ticks (k : Nat) (s : State) :
    performMoves (List.replicate k .tick) s = .next { s with time := s.time + BitVec.ofNat 64 k } := by
  induction k generalizing s with
  | zero => simp
  | succ k ih =>
    have htime : s.time + 1 + BitVec.ofNat 64 k = s.time + BitVec.ofNat 64 (k + 1) := by
      rw [BitVec.add_assoc, Nat.add_comm k, BitVec.ofNat_add]
      rfl
    rw [List.replicate_succ, performMoves_cons, performMove, thenDo_next, ih, tickStep_time, htime]
    rfl

theorem performMoves_ticks_until (now : Ticks) (s : State) :
    performMoves (List.replicate (now - s.time).toNat .tick) s = .next { s with time := now } := by
  rw [performMoves_ticks, BitVec.ofNat_toNat, BitVec.setWidth_eq, BitVec.add_comm, BitVec.sub_add_cancel]

/-- At some count the command in progress has a step: a hold at the count its ticks lead to. -/
theorem exists_time_enabled {s : State} (hbusy : s.engine ≠ .idle) :
    ∃ now, engineEnabled { s with time := now } = true := by
  obtain halways | ⟨start, t, rest, snap, he⟩ := always_enabled_or_tickHold hbusy
  · exact ⟨s.time, halways _ rfl⟩
  · refine ⟨start + t, (engineEnabled_tickHold (s := { s with time := start + t }) he).trans ?_⟩
    simp [elapsedAtLeast, BitVec.add_comm start t]

/-- An enabled step of a command in progress brings its finish nearer. -/
theorem exists_enabled_step {s : State} (hs : Inv s) (hbusy : s.engine ≠ .idle) (hen : engineEnabled s = true) :
    ∃ t, performMove .engine s = .next t ∧ Inv t ∧ engineWeight t.engine < engineWeight s.engine ∧
      lineAtEnd t = lineAtEnd s := by
  have ⟨_, _, hengine⟩ := hs
  obtain ⟨t, ht⟩ := engineStep_completes hengine
  have hstep := engineStep_next ht
  exact ⟨t, ht, performMove_keeps_inv (m := .engine) ht hs,
    engineStepTo_engineWeight_lt hstep hbusy (engineStep_enabled_ne hen ht), engineStepTo_lineAtEnd hstep hbusy⟩

/-- So do ticks, if the command waits for some, and then an engine step. -/
theorem exists_inner_step {s : State} (hs : Inv s) (hbusy : s.engine ≠ .idle) :
    ∃ ms t, (∀ m ∈ ms, isInner m = true) ∧ performMoves ms s = .next t ∧ Inv t ∧
      engineWeight t.engine < engineWeight s.engine ∧ lineAtEnd t = lineAtEnd s := by
  obtain ⟨now, hen⟩ := exists_time_enabled hbusy
  obtain ⟨t, ht, hinv, hlt, hline⟩ := exists_enabled_step (s := { s with time := now }) hs hbusy hen
  refine ⟨List.replicate (now - s.time).toNat .tick ++ [.engine], t, fun m hm => ?_, ?_, hinv, hlt, hline⟩
  · obtain hm | hm := List.mem_append.mp hm
    · rw [List.eq_of_mem_replicate hm]
      rfl
    · rw [List.mem_singleton.mp hm]
      rfl
  · rw [performMoves_append, performMoves_ticks_until, thenDo_next, performMoves_cons, ht]
    rfl

/-- From every good state the engine can become Idle without host or platform, the line then as its last drive leaves it. -/
theorem exists_inner_finish {s : State} (hs : Inv s) :
    ∃ ms t, (∀ m ∈ ms, isInner m = true) ∧ performMoves ms s = .next t ∧ t.engine = .idle ∧ t.gpioOut = lineAtEnd s := by
  induction hw : engineWeight s.engine using Nat.strong_induction_on generalizing s with
  | h w ih =>
    by_cases hidle : s.engine = .idle
    · exact ⟨[], s, nofun, rfl, hidle, (lineAtEnd_idle hidle).symm⟩
    · obtain ⟨ms, mid, hms, hmid, hinv, hlt, hline⟩ := exists_inner_step hs hidle
      obtain ⟨ns, t, hns, ht, htidle, hgpio⟩ := ih _ (hw ▸ hlt) hinv rfl
      refine ⟨ms ++ ns, t, fun m hm => (List.mem_append.mp hm).elim (hms m) (hns m), ?_, htidle, hgpio.trans hline⟩
      rw [performMoves_append, hmid, thenDo_next, ht]

/-- Settles O54: in a good state the last drive left to be done is MASK_OFF, if there is one. -/
theorem everyCommandInProgressCanFinish : Obligations.EveryCommandInProgressCanFinish := by
  intro s rem snap hs he
  obtain ⟨ms, t, hms, ht, hidle, hgpio⟩ := exists_inner_finish hs
  obtain ⟨-, -, hengine⟩ := hs
  rw [he] at hengine
  obtain ⟨-, -, hlast⟩ := hengine
  refine ⟨ms, t, hms, ht, hidle, ?_⟩
  rw [hgpio, lineAtEnd_exec he]
  obtain hnone | hoff := hlast
  · exact .inr ⟨hnone, by simp [hnone]⟩
  · exact .inl (by simp [hoff])

end Sys2Proof.Safety
end

section
/-! The schedule and the runs of the machine (20_memory.md R68, 40_engine.md R115, 60_exceptions.md R220): which move comes next,
that every schedule is fair, and that in a fair run every hold ends and every command finishes. -/

namespace Sys2Proof.Machine

/-! ## TIME and the schedule -/

/-- The two states agree in TIME and in what says which moves come next. -/
structure SameSchedule (s t : State) : Prop where
  time : t.time = s.time
  agenda : t.agenda = s.agenda
  freeRounds : t.freeRounds = s.freeRounds

theorem SameSchedule.refl (s : State) : SameSchedule s s := ⟨rfl, rfl, rfl⟩

theorem SameSchedule.trans {s t u : State} (hst : SameSchedule s t) (htu : SameSchedule t u) : SameSchedule s u :=
  ⟨htu.time.trans hst.time, htu.agenda.trans hst.agenda, htu.freeRounds.trans hst.freeRounds⟩

theorem EngineStepTo.sameSchedule {s t : State} (h : EngineStepTo s t) : SameSchedule s t := by
  cases h <;> exact ⟨rfl, rfl, rfl⟩

theorem pushCmd_sameSchedule (depth : Nat) (w : Word) (s : State) : SameSchedule s (pushCmd depth w s) := by
  obtain ⟨-, h⟩ | ⟨-, h⟩ := pushCmd_cases depth w s <;> rw [h] <;> exact ⟨rfl, rfl, rfl⟩

theorem writeReg_sameSchedule (depth : Nat) (r : Reg) (w : Word) (s : State) : SameSchedule s (writeReg depth r w s) := by
  cases r with
  | cmd => exact pushCmd_sameSchedule depth w s
  | _ => exact ⟨rfl, rfl, rfl⟩

theorem readEffect_sameSchedule (r : Reg) (s : State) : SameSchedule s (readEffect r s) := by
  unfold readEffect
  split <;> exact ⟨rfl, rfl, rfl⟩

theorem hostAccess_sameSchedule {a : Access} {s t : State} (h : hostAccess a s = .next t) : SameSchedule s t := by
  obtain ⟨r, -, rfl⟩ | rfl | ⟨r, v, -, rfl⟩ | rfl := hostAccess_next h
  · exact (readEffect_sameSchedule r s).trans ⟨rfl, rfl, rfl⟩
  · exact ⟨rfl, rfl, rfl⟩
  · exact writeReg_sameSchedule _ r v s
  · exact .refl _

/-- Only a tick and a reset write TIME (10_state.md R42), and no move the schedule. -/
theorem performMove_sameSchedule {m : Move} {s t : State} (h : performMove m s = .next t) (htick : m ≠ .tick)
    (hreset : m ≠ .reset) : SameSchedule s t := by
  cases m with
  | engine => exact (engineStep_next h).sameSchedule
  | host a => exact hostAccess_sameSchedule h
  | pushWithEngine w =>
    obtain ⟨mid, hs, hp⟩ := thenDo_eq_next.mp h
    cases hp
    exact (engineStep_next hs).sameSchedule.trans (pushCmd_sameSchedule _ w mid)
  | clearWithEngine w => exact SameSchedule.trans (t := clearSticky w s) ⟨rfl, rfl, rfl⟩ (engineStep_next h).sameSchedule
  | tick => exact absurd rfl htick
  | reset => exact absurd rfl hreset
  | gpioWrite v => cases h; exact ⟨rfl, rfl, rfl⟩
  | gpioReset => cases h; exact ⟨rfl, rfl, rfl⟩

/-- A tick adds one to TIME (60_exceptions.md R220), and no other move but a reset changes it. -/
theorem performMove_time {m : Move} {s t : State} (h : performMove m s = .next t) (hreset : m ≠ .reset) :
    t.time = if m = .tick then s.time + 1 else s.time := by
  split
  · rename_i htick
    subst htick
    cases h
    rfl
  · rename_i htick
    exact (performMove_sameSchedule h htick hreset).time

theorem performMove_schedule {m : Move} {s t : State} (h : performMove m s = .next t) :
    t.agenda = s.agenda ∧ t.freeRounds = s.freeRounds := by
  by_cases htick : m = .tick
  · subst htick; cases h; exact ⟨rfl, rfl⟩
  by_cases hreset : m = .reset
  · subst hreset; cases h; exact ⟨rfl, rfl⟩
  · have hsame := performMove_sameSchedule h htick hreset
    exact ⟨hsame.agenda, hsame.freeRounds⟩

/-- A step performs the first move of the schedule. -/
theorem step_eq_performMove_scheduled (s : State) : ∃ later round,
    step s = performMove (scheduled 0 s.agenda s.freeRounds) { s with agenda := later, freeRounds := round } := by
  rw [step, scheduledStep]
  cases ha : s.agenda with
  | nil => exact ⟨_, _, rfl⟩
  | cons m later => exact ⟨later, s.freeRounds, rfl⟩

/-- After a step the rest of the schedule is what was scheduled behind it. -/
theorem scheduled_succ_of_step {s t : State} (h : step s = .next t) (n : Nat) :
    scheduled (n + 1) s.agenda s.freeRounds = scheduled n t.agenda t.freeRounds := by
  rw [step, scheduledStep] at h
  cases ha : s.agenda with
  | nil =>
    rw [ha] at h
    obtain ⟨hagenda, hrounds⟩ := performMove_schedule h
    rw [hagenda, hrounds, scheduled]
  | cons m later =>
    rw [ha] at h
    obtain ⟨hagenda, hrounds⟩ := performMove_schedule h
    rw [hagenda, hrounds, scheduled]

/-- The move `n` steps ahead is the next one after `n` steps. -/
theorem scheduled_eq_of_run {n : Nat} {s t : State} (h : Sys2Proof.core.run n s = .next t) :
    scheduled n s.agenda s.freeRounds = scheduled 0 t.agenda t.freeRounds := by
  induction n generalizing s with
  | zero => cases h; rfl
  | succ n ih =>
    obtain ⟨mid, hstep, hrun⟩ := thenDo_eq_next.mp ((run_succ n s).symm.trans h)
    rw [scheduled_succ_of_step hstep, ih hrun]

/-- What comes up in every round comes up without end, whatever the agenda holds. -/
theorem exists_scheduled_of_round {P : Move → Prop}
    (hround : ∀ round, ∃ m ∈ (freeRound round).1 :: (freeRound round).2, P m) (n : Nat) (agenda : List Move) (round : Nat) :
    ∃ k, n ≤ k ∧ P (scheduled k agenda round) := by
  induction n generalizing agenda round with
  | zero =>
    obtain ⟨m, hm, hP⟩ := hround round
    obtain ⟨j, hj⟩ := List.mem_iff_getElem?.mp hm
    refine ⟨agenda.length + j, Nat.zero_le _, ?_⟩
    rwa [scheduled_past, scheduled_nil, scheduled_agenda _ hj]
  | succ n ih =>
    cases agenda with
    | nil =>
      obtain ⟨k, hk, hP⟩ := ih (freeRound round).2 (round + 1)
      exact ⟨k + 1, Nat.succ_le_succ hk, hP⟩
    | cons m later =>
      obtain ⟨k, hk, hP⟩ := ih later round
      exact ⟨k + 1, Nat.succ_le_succ hk, hP⟩

theorem tick_mem_freeRound (round : Nat) : .tick ∈ (freeRound round).1 :: (freeRound round).2 := by
  rw [freeRound_list]
  simp

theorem freeTurn_mem_freeRound (round : Nat) :
    (Config.freeTurn round).move ∈ (freeRound round).1 :: (freeRound round).2 := by
  rw [freeRound_list]
  simp

end Sys2Proof.Machine

namespace Sys2Proof.Safety

open Sys2Proof.Machine

/-- Settles O59: a step performs the head of the schedule, and every round of it has its tick and its turn. -/
theorem theMachineTakesItsMovesFromAFairSchedule : Obligations.TheMachineTakesItsMovesFromAFairSchedule := by
  refine ⟨fun s t n h => ?_, fun agenda round => ⟨fun n => ?_, fun n => ?_⟩⟩
  · rw [scheduled_eq_of_run h]
    exact step_eq_performMove_scheduled t
  · exact exists_scheduled_of_round (P := (· = .tick)) (fun r => ⟨_, tick_mem_freeRound r, rfl⟩) n agenda round
  · exact exists_scheduled_of_round (P := (·.isTurn = true))
      (fun r => ⟨_, freeTurn_mem_freeRound r, EngineTurn.isTurn_move _⟩) n agenda round

/-! ## When the engine moves -/

/-- The move makes the engine go on, or abandons the command: a turn in which it has a step, or a reset. -/
def MovesEngine (m : Move) (s : State) : Prop := m = .reset ∨ (m.isTurn = true ∧ engineEnabled s = true)

/-- An engine turn is an engine step, beside which the host's write in the same clock cycle changes nothing that an engine with a
command in progress goes by. -/
theorem performMove_turn {m : Move} {s t : State} (hm : m.isTurn = true) (h : performMove m s = .next t) :
    ∃ s' t', engineStep s' = .next t' ∧ s'.engine = s.engine ∧ s'.time = s.time ∧
      engineEnabled s' = engineEnabled s ∧ t.engine = t'.engine := by
  cases m with
  | engine => exact ⟨s, t, h, rfl, rfl, rfl, rfl⟩
  | pushWithEngine w =>
    obtain ⟨mid, hs, hp⟩ := thenDo_eq_next.mp h
    cases hp
    exact ⟨s, mid, hs, rfl, rfl, rfl, (pushCmd_sameBehindBus _ w mid).engine⟩
  | clearWithEngine w => exact ⟨clearSticky w s, t, h, rfl, rfl, rfl, rfl⟩
  | tick | host _ | gpioWrite _ | gpioReset | reset => cases hm

/-- Every other move leaves the engine as it is. -/
theorem engine_eq_of_not_movesEngine {m : Move} {s t : State} (h : performMove m s = .next t) (hstill : ¬MovesEngine m s) :
    t.engine = s.engine := by
  obtain ⟨hreset, hturn⟩ := not_or.mp hstill
  by_cases hm : m.isTurn = true
  · obtain ⟨s', t', hstep, hengine, -, hen, ht⟩ := performMove_turn hm h
    have hdisabled : engineEnabled s' = false := by simpa [hen, hm] using hturn
    cases (engineStep_disabled hdisabled).symm.trans hstep
    exact ht.trans hengine
  · cases performMove_behindBus h with
    | turn s' t' isTurn => exact absurd isTurn hm
    | tick ht => subst ht; rfl
    | host a same => exact same.engine
    | gpioWrite v ht => subst ht; rfl
    | gpioReset ht => subst ht; rfl
    | reset => exact absurd rfl hreset

theorem engine_idle_of_reset {s t : State} (h : performMove .reset s = .next t) : t.engine = .idle := by
  cases h
  rfl

/-- A move that makes a command in progress go on brings the engine nearer to Idle. -/
theorem engineWeight_lt_of_movesEngine {m : Move} {s t : State} (h : performMove m s = .next t) (hbusy : s.engine ≠ .idle)
    (hm : MovesEngine m s) : engineWeight t.engine < engineWeight s.engine := by
  obtain rfl | ⟨hturn, hen⟩ := hm
  · rw [engine_idle_of_reset h]
    cases he : s.engine with
    | idle => exact absurd he hbusy
    | exec rem snap => exact Nat.succ_pos _
  · obtain ⟨s', t', hstep, hengine, -, hen', ht⟩ := performMove_turn hturn h
    rw [ht, ← hengine]
    exact engineStepTo_engineWeight_lt (engineStep_next hstep) (hengine ▸ hbusy)
      (engineStep_enabled_ne (hen'.trans hen) hstep)

/-- An engine turn at a hold whose ticks have elapsed ends it. -/
theorem engine_of_turn_tickHold {m : Move} {s t : State} {start ticks : Ticks} {rest : List MicroOp} {snap : Snapshot}
    (h : performMove m s = .next t) (hm : m.isTurn = true) (he : s.engine = .exec (.tickHold start ticks :: rest) snap)
    (helapsed : elapsedAtLeast s.time start ticks = true) : t.engine = .exec rest snap := by
  obtain ⟨s', t', hstep, hengine, htime, -, ht⟩ := performMove_turn hm h
  cases (engineStep_tickHold_elapsed (hengine.trans he) (htime ▸ helapsed)).symm.trans hstep
  exact ht

/-! ## Fair runs -/

/-- A count that has not reached `t` goes up by one in a tick, without a wrap. -/
theorem toNat_sub_succ {now start t : Ticks} (h : (now - start).toNat < t.toNat) :
    (now + 1 - start).toNat = (now - start).toNat + 1 := by
  bv_omega

section
variable {f : Nat → Move} {r : Nat → State} (hruns : Runs f r)
include hruns

/-- From a state on, either the engine moves at some time, and until then it is as it was, or it stays so for ever. -/
theorem engine_moves_or_stays (n : Nat) :
    (∃ k, n ≤ k ∧ (r k).engine = (r n).engine ∧ MovesEngine (f k) (r k)) ∨
    ∀ k, n ≤ k → (r k).engine = (r n).engine ∧ ¬MovesEngine (f k) (r k) := by
  by_cases hmoves : ∃ k, n ≤ k ∧ (r k).engine = (r n).engine ∧ MovesEngine (f k) (r k)
  · exact .inl hmoves
  · have hstill : ∀ k, n ≤ k → (r k).engine = (r n).engine → ¬MovesEngine (f k) (r k) :=
      fun k hk he hm => hmoves ⟨k, hk, he, hm⟩
    have hengine : ∀ k, n ≤ k → (r k).engine = (r n).engine := fun k hk => by
      induction k, hk using Nat.le_induction with
      | base => rfl
      | succ k hk ih => exact (engine_eq_of_not_movesEngine (hruns k) (hstill k hk ih)).trans ih
    exact .inr fun k hk => ⟨hengine k hk, hstill k hk (hengine k hk)⟩

/-- While a hold has not elapsed, the ticks since its start are counted without a wrap, so it elapses. -/
theorem exists_elapsed (hticks : TicksForever f) {n : Nat} (hreset : ∀ k, n ≤ k → f k ≠ .reset)
    (start t : Ticks) : ∃ k, n ≤ k ∧ elapsedAtLeast (r k).time start t = true := by
  by_contra hnever
  have hbelow : ∀ k, n ≤ k → ((r k).time - start).toNat < t.toNat := fun k hk => by
    by_contra hge
    exact hnever ⟨k, hk, by simpa [elapsedAtLeast, BitVec.le_def] using hge⟩
  have hcount : ∀ k, n ≤ k →
      ((r (k + 1)).time - start).toNat = ((r k).time - start).toNat + if f k = .tick then 1 else 0 := fun k hk => by
    rw [performMove_time (hruns k) (hreset k hk)]
    split
    · exact toNat_sub_succ (hbelow k hk)
    · rfl
  have hmono : ∀ k l, n ≤ k → k ≤ l → ((r k).time - start).toNat ≤ ((r l).time - start).toNat := fun k l hk hl => by
    induction l, hl using Nat.le_induction with
    | base => exact Nat.le_refl _
    | succ l hl ih => have := hcount l (hk.trans hl); omega
  have hunbounded : ∀ j, ∃ k, n ≤ k ∧ j ≤ ((r k).time - start).toNat := fun j => by
    induction j with
    | zero => exact ⟨n, Nat.le_refl n, Nat.zero_le _⟩
    | succ j ih =>
      obtain ⟨k, hk, hj⟩ := ih
      obtain ⟨l, hl, htick⟩ := hticks k
      have hstep := hcount l (hk.trans hl)
      rw [if_pos htick] at hstep
      have := hmono k l hk hl
      exact ⟨l + 1, by omega, by omega⟩
  obtain ⟨k, hk, hj⟩ := hunbounded t.toNat
  exact absurd (hbelow k hk) (by omega)

/-- An engine that stays with a command in progress comes to have a step for ever: a hold elapses, and stays elapsed. -/
theorem eventually_enabled (hticks : TicksForever f) (hwraps : NoHoldWraps f r) {n : Nat}
    (hbusy : (r n).engine ≠ .idle) (hengine : ∀ k, n ≤ k → (r k).engine = (r n).engine)
    (hreset : ∀ k, n ≤ k → f k ≠ .reset) : ∃ l, n ≤ l ∧ ∀ k, l ≤ k → engineEnabled (r k) = true := by
  obtain halways | ⟨start, t, rest, snap, he⟩ := always_enabled_or_tickHold hbusy
  · exact ⟨n, Nat.le_refl n, fun k hk => halways _ (hengine k hk)⟩
  · obtain ⟨l, hl, helapsed⟩ := exists_elapsed hruns hticks hreset start t
    refine ⟨l, hl, fun k hk => ?_⟩
    have hold : ∀ k, n ≤ k → (r k).engine = .exec (.tickHold start t :: rest) snap := fun k hk => (hengine k hk).trans he
    rw [engineEnabled_tickHold (hold k (hl.trans hk))]
    induction k, hk using Nat.le_induction with
    | base => exact helapsed
    | succ k hk ih =>
      by_cases htick : f k = .tick
      · exact hwraps k start t rest snap (hold k (hl.trans hk)) ih htick
      · rwa [performMove_time (hruns k) (hreset k (hl.trans hk)), if_neg htick]

/-- In a fair run a command in progress goes on, or a reset abandons it (40_engine.md R115). -/
theorem exists_movesEngine (hfair : WeaklyFair f r) (hwraps : NoHoldWraps f r) {n : Nat}
    (hbusy : (r n).engine ≠ .idle) : ∃ k, n ≤ k ∧ (r k).engine = (r n).engine ∧ MovesEngine (f k) (r k) := by
  refine (engine_moves_or_stays hruns n).resolve_right fun hstays => ?_
  obtain ⟨hticks, hturns⟩ := hfair
  obtain ⟨l, hl, hen⟩ := eventually_enabled hruns hticks hwraps hbusy (fun k hk => (hstays k hk).1)
    (fun k hk hreset => (hstays k hk).2 (.inl hreset))
  obtain ⟨k, hk, hturn⟩ := hturns l hen
  exact (hstays k (hl.trans hk)).2 (.inr ⟨hturn, hen k hk⟩)

/-- In a fair run the engine becomes Idle again and again: each move that makes it go on lowers its weight. -/
theorem exists_idle (hfair : WeaklyFair f r) (hwraps : NoHoldWraps f r) (n : Nat) :
    ∃ k, n ≤ k ∧ (r k).engine = .idle := by
  induction hw : engineWeight (r n).engine using Nat.strong_induction_on generalizing n with
  | h w ih =>
    by_cases hidle : (r n).engine = .idle
    · exact ⟨n, Nat.le_refl n, hidle⟩
    · obtain ⟨k, hk, he, hmoves⟩ := exists_movesEngine hruns hfair hwraps hidle
      have hlt := engineWeight_lt_of_movesEngine (hruns k) (he ▸ hidle) hmoves
      rw [he, hw] at hlt
      obtain ⟨l, hl, hlidle⟩ := ih _ hlt (k + 1) rfl
      exact ⟨l, by omega, hlidle⟩

end

/-- Settles O60: in a fair run the engine moves on from a hold, in a turn once it has elapsed, and from everything else. -/
theorem inEveryFairRunHoldsEndAndCommandsFinish : Obligations.InEveryFairRunHoldsEndAndCommandsFinish := by
  refine fun f r hruns hfair hwraps => ⟨fun n start t rest snap he => ?_, exists_idle hruns hfair hwraps⟩
  obtain ⟨k, hk, hsame, hmoves⟩ := exists_movesEngine hruns hfair hwraps (n := n) (by simp [he])
  have hhold := hsame.trans he
  refine ⟨k, hk, hhold, hmoves.imp_right fun ⟨hturn, hen⟩ => ?_⟩
  have helapsed := (engineEnabled_tickHold hhold).symm.trans hen
  exact ⟨hturn, helapsed, engine_of_turn_tickHold (hruns k) hturn hhold helapsed⟩

end Sys2Proof.Safety
end

section
/-! The starts of the pulse commands (41_pulse_commands.md): a start whose checks pass gives the engine the command's expansion
(40_engine.md R102, R103), and the expansions of R106 to R109 as lists in wire order. -/

namespace Sys2Proof.Machine

/-- The pulse of a 1 bit, its counts as numbers (40_engine.md R105, R106). -/
theorem bitU_true (snap : Snapshot) : bitU snap true =
    [.drive snap.maskOn, .spin (max 1 ((snap.t1h.toNat - snap.ov1h.toNat) / snap.calDiv.toNat)),
     .drive snap.maskOff, .spin (max 1 ((snap.t1l.toNat - snap.ov1l.toNat) / snap.calDiv.toNat))] := by
  rw [bitU, highIterations, lowIterations, iterations_eq, iterations_eq]

/-- The pulse of a 0 bit, its counts as numbers (40_engine.md R105, R106). -/
theorem bitU_false (snap : Snapshot) : bitU snap false =
    [.drive snap.maskOn, .spin (max 1 ((snap.t0h.toNat - snap.ov0h.toNat) / snap.calDiv.toNat)),
     .drive snap.maskOff, .spin (max 1 ((snap.t0l.toNat - snap.ov0l.toNat) / snap.calDiv.toNat))] := by
  rw [bitU, highIterations, lowIterations, iterations_eq, iterations_eq]

theorem byteU_eq_flatMap (snap : Snapshot) (x : Byte) :
    byteU snap x = [7, 6, 5, 4, 3, 2, 1, 0].flatMap (fun k => bitU snap (x.getLsbD k)) := by
  simp [byteU]

theorem pixelU_eq_flatMap (snap : Snapshot) (r g b : Byte) : pixelU snap r g b = [g, r, b].flatMap (byteU snap) := by
  simp [pixelU]

end Sys2Proof.Machine

namespace Sys2Proof.Safety

open Sys2Proof.Machine

/-- R103's checks after the first raise no error exactly if they pass. -/
theorem startError_eq_none_iff {s : State} {i : Instr} : startError s i = none ↔ Startable i s := by
  cases i with
  | nop | maskinit _ | setScale _ | latch | delayTicks _ | waitIters _ => simp [startError, Startable, isDriving, isTimed]
  | sendBit _ | sendByte _ | sendPixel _ _ _ | sendPixelScaled _ _ _ | fill _ _ _ _ | fillScaled _ _ _ =>
    by_cases hvalid : s.maskValid = true <;> simp [startError, Startable, isDriving, isTimed, hvalid]

/-- A start whose checks pass (40_engine.md R102). -/
theorem Startable.exec_eq {i : Instr} {s : State} (h : Startable i s) : exec i s = .next
    { s with
      log := s.log ++ [.start (encode i)]
      engine := .exec (expansion s.snapshot i) s.snapshot } := by
  rw [Machine.exec_eq, startError_eq_none_iff.2 h]
  rfl

theorem startable_of_masks_calDiv {s : State} (hvalid : s.maskValid = true) (hcal : s.calDiv ≠ 0#16) (i : Instr) :
    Startable i s := ⟨fun _ => hvalid, fun _ => hcal⟩

/-- SET_SCALE needs neither masks nor CAL_DIV (41_pulse_commands.md R134). -/
theorem startable_setScale (s : State) (v : Byte) : Startable (.setScale v) s := ⟨nofun, nofun⟩

/-- The engine turn of a ready head that is a command's word starts the command. -/
theorem HeadReady.performMove_exec {s : State} {i : Instr} {queued : List Word} (h : HeadReady s (encode i) queued) :
    performMove .engine s = exec i { s with fifo := queued } := by
  rw [performMove, h.engineStep_eq, startWord, decode_legal_iff_encode.2 rfl]

/-- Settles O12: the start, the micro-operation and the finish are one engine step each. -/
theorem setScaleSetsTheScale : Obligations.SetScaleSetsTheScale := by
  refine ⟨fun s v => (startable_setScale s v).exec_eq, fun s v queued hready => ?_⟩
  have ⟨hidle, _, _⟩ := hready
  rw [performMoves_cons, hready.performMove_exec, (startable_setScale _ v).exec_eq, thenDo_next,
    performMoves_cons, performMove, engineStep_exec rfl, stepMicroOp, stepSetScale, thenDo_next,
    performMoves_cons, performMove, engineStep_finish rfl, thenDo_next, performMoves_nil]
  simp [setEngine, record, hidle]

/-- Settles O13, by the pulse of each bit value. -/
theorem sendBitStartsThePulseOfItsBit : Obligations.SendBitStartsThePulseOfItsBit := by
  intro s hvalid hcal
  have start := fun bit => (startable_of_masks_calDiv hvalid hcal (.sendBit bit)).exec_eq
  constructor
  · rw [start, expansion, bitU_true]
    rfl
  · rw [start, expansion, bitU_false]
    rfl

/-- Settles O14, by the byte's bits in wire order. -/
theorem sendByteStartsItsBitsMostSignificantFirst : Obligations.SendByteStartsItsBitsMostSignificantFirst := by
  intro s x hvalid hcal
  rw [(startable_of_masks_calDiv hvalid hcal _).exec_eq, expansion, byteU_eq_flatMap]

/-- Settles O15, by the pixel's bytes in wire order. -/
theorem sendPixelStartsGreenRedBlue : Obligations.SendPixelStartsGreenRedBlue := by
  intro s r g b hvalid hcal
  rw [(startable_of_masks_calDiv hvalid hcal _).exec_eq, expansion, pixelU_eq_flatMap]

/-- Settles O16: the snapshot's SCALE is the one of the start. -/
theorem sendPixelScaledStartsTheScaledChannels : Obligations.SendPixelScaledStartsTheScaledChannels := by
  intro s r g b hvalid hcal
  rw [(startable_of_masks_calDiv hvalid hcal _).exec_eq, expansion, scaledU, pixelU_eq_flatMap]
  rfl

end Sys2Proof.Safety
end

section
/-! The frame commands (42_frame_commands.md): RES_TICKS as a number (R151), and the micro-operations of a pixel and of its
copies, counted and without a tick wait (R108, R152, R153). -/

namespace Sys2Proof.Machine

/-- RES_TICKS, its rounding up written as a floor (R151). -/
theorem resTicks_eq (tickHz : Nat) (resNs : Word) :
    resTicks tickHz resNs = (resNs.toNat * tickHz + 999999999) / 1000000000 + 1 := by
  rw [resTicks, ceilDiv, Nat.add_sub_assoc (by decide)]

/-- RES_TICKS fits the 64 bits of a tick count at every tick rate of 00_scope.md R11 (R151). -/
theorem resTicks_toNat {tickHz : Nat} (hHz : tickHz ≤ 1000000000) (resNs : Word) :
    (BitVec.ofNat 64 (resTicks tickHz resNs)).toNat = resTicks tickHz resNs := by
  have hprod : resNs.toNat * tickHz ≤ 2 ^ 32 * 1000000000 := Nat.mul_le_mul resNs.isLt.le hHz
  rw [BitVec.toNat_ofNat]
  refine Nat.mod_eq_of_lt ?_
  rw [resTicks_eq]
  omega

theorem mem_of_mem_copies {n : Nat} {u : MicroOp} {us : List MicroOp} (h : u ∈ copies n us) : u ∈ us := by
  obtain ⟨vs, hvs, hu⟩ := List.mem_flatten.mp h
  exact List.eq_of_mem_replicate hvs ▸ hu

theorem length_copies (n : Nat) (us : List MicroOp) : (copies n us).length = n * us.length := by
  simp [copies]

theorem length_bitU (snap : Snapshot) (b : Bool) : (bitU snap b).length = 4 := rfl

theorem length_byteU (snap : Snapshot) (x : Byte) : (byteU snap x).length = 32 := by
  simp [byteU_eq_flatMap, length_bitU]

theorem length_pixelU (snap : Snapshot) (r g b : Byte) : (pixelU snap r g b).length = 96 := by
  simp [pixelU_eq_flatMap, length_byteU]

theorem tickWait_notMem_bitU (snap : Snapshot) (b : Bool) (t : Ticks) : .tickWait t ∉ bitU snap b := by
  simp [bitU]

theorem tickWait_notMem_byteU (snap : Snapshot) (x : Byte) (t : Ticks) : .tickWait t ∉ byteU snap x := by
  simp [byteU_eq_flatMap, tickWait_notMem_bitU]

theorem tickWait_notMem_pixelU (snap : Snapshot) (r g b : Byte) (t : Ticks) : .tickWait t ∉ pixelU snap r g b := by
  simp [pixelU_eq_flatMap, tickWait_notMem_byteU]

end Sys2Proof.Machine

namespace Sys2Proof.Safety

open Sys2Proof.Machine

/-- Settles O30: RES_TICKS - 1 is the rounded-up quotient of R151. -/
theorem latchTicksCoverTheLatchTime : Obligations.LatchTicksCoverTheLatchTime := by
  intro resNs
  obtain ⟨hHz, hHz'⟩ := tickHz_range
  have hquot := resTicks_eq Config.tickHz resNs
  refine ⟨?_, fun hne => ?_, ?_, resTicks_toNat hHz' resNs⟩
  · omega
  · have hpos : 0 < resNs.toNat * Config.tickHz :=
      Nat.mul_pos (Nat.pos_of_ne_zero fun h => hne (BitVec.eq_of_toNat_eq h)) hHz
    omega
  · rintro rfl
    rw [resTicks_eq]
    simp

/-- LATCH needs the masks only (42_frame_commands.md R150). -/
theorem startable_latch {s : State} (hvalid : s.maskValid = true) : Startable .latch s := ⟨fun _ => hvalid, nofun⟩

/-- Settles O17: LATCH passes its checks whatever CAL_DIV is, and its tick count fits 64 bits. -/
theorem latchDrivesLowAndWaitsResTicks : Obligations.LatchDrivesLowAndWaitsResTicks :=
  fun s hvalid => ⟨BitVec.ofNat 64 (resTicks Config.tickHz s.resNs),
    (resTicks_toNat tickHz_range.2 s.resNs).trans (resTicks_eq _ _), (startable_latch hvalid).exec_eq⟩

/-- Settles O18, by the expansion of FILL and the length of a pixel's. -/
theorem fillSendsThePixelStripLenTimes : Obligations.FillSendsThePixelStripLenTimes := by
  intro s shown r g b hvalid hcal
  refine ⟨_, _, rfl, rfl, (startable_of_masks_calDiv hvalid hcal _).exec_eq, ?_⟩
  calc (copies s.stripLen.toNat (pixelU s.snapshot r g b)).length
      = s.stripLen.toNat * 96 := by rw [length_copies, length_pixelU]
    _ = 96 * s.stripLen.toNat := Nat.mul_comm _ _

/-- Settles O19, by the expansion of FILL_SCALED: no pixel has a tick wait. -/
theorem fillScaledSendsTheScaledPixelAndNeverLatches : Obligations.FillScaledSendsTheScaledPixelAndNeverLatches := by
  intro s r g b hvalid hcal
  exact ⟨_, rfl, (startable_of_masks_calDiv hvalid hcal _).exec_eq,
    fun t ht => tickWait_notMem_pixelU _ _ _ _ t (mem_of_mem_copies ht)⟩

end Sys2Proof.Safety
end

section
/-! The control commands (43_control_commands.md): each starts in every state and runs from its queued word to its finish, and
MaskCapture forms its masks bit by bit (R172). -/

namespace Sys2Proof.Machine

/-- The predicate of R221 after a number of ticks that does not carry TIME all the way around. -/
theorem elapsedAtLeast_add_ofNat_iff {ticks : Nat} (hticks : ticks < 2 ^ 64) (start t : Ticks) :
    elapsedAtLeast (start + BitVec.ofNat 64 ticks) start t = true ↔ t.toNat ≤ ticks := by
  rw [elapsedAtLeast, decide_eq_true_iff, BitVec.add_comm, BitVec.add_sub_cancel, BitVec.le_def, BitVec.toNat_ofNat,
    Nat.mod_eq_of_lt hticks]

section
variable {s : State} {rest : List MicroOp} {snap : Snapshot} {start t : Ticks} {ticks : Nat}

/-- Fewer ticks after its sample than it waits for, a hold goes on (40_engine.md R113). -/
theorem engineStep_tickHold_before (h : s.engine = .exec (.tickHold start t :: rest) snap)
    (htime : s.time = start + BitVec.ofNat 64 ticks) (hlt : ticks < t.toNat) : engineStep s = .next s := by
  refine engineStep_tickHold_waits h (Bool.eq_false_iff.mpr fun helapsed => ?_)
  rw [htime, elapsedAtLeast_add_ofNat_iff (hlt.trans t.isLt)] at helapsed
  exact hlt.not_ge helapsed

/-- As many ticks after its sample as it waits for, a hold ends (40_engine.md R113). -/
theorem engineStep_tickHold_after (h : s.engine = .exec (.tickHold start t :: rest) snap)
    (htime : s.time = start + BitVec.ofNat 64 ticks) (hticks : ticks < 2 ^ 64) (hle : t.toNat ≤ ticks) :
    engineStep s = .next (setEngine (.exec rest snap) (record (.tickHold start t s.time) s)) :=
  engineStep_tickHold_elapsed h (htime ▸ (elapsedAtLeast_add_ofNat_iff hticks start t).mpr hle)

end

/-- The ON mask has GPIO_OUT's bits, and 1 at the pin (43_control_commands.md R172). -/
theorem getLsbD_masksOf_on (cur : Word) (pin : BitVec 5) {k : Nat} (hk : k < 32) :
    (masksOf cur pin).1.getLsbD k = (cur.getLsbD k || k == pin.toNat) := by
  rw [masksOf, BitVec.getLsbD_or, getLsbD_pinBit pin hk]

/-- The OFF mask has GPIO_OUT's bits, and 0 at the pin (43_control_commands.md R172). -/
theorem getLsbD_masksOf_off (cur : Word) (pin : BitVec 5) {k : Nat} (hk : k < 32) :
    (masksOf cur pin).2.getLsbD k = (cur.getLsbD k && k != pin.toNat) := by
  rw [masksOf, BitVec.getLsbD_and, BitVec.getLsbD_not, getLsbD_pinBit pin hk, decide_eq_true hk, Bool.true_and, bne]

/-- An engine without a step holds through any number of its turns. -/
theorem performMoves_engine_holds {s : State} (h : engineStep s = .next s) (k : Nat) :
    performMoves (List.replicate k .engine) s = .next s := by
  induction k with
  | zero => rfl
  | succ k ih => rw [List.replicate_succ, performMoves_cons, performMove, h, thenDo_next, ih]

end Sys2Proof.Machine

namespace Sys2Proof.Safety

open Sys2Proof.Machine

theorem isDriving_of_isTimed {i : Instr} (h : isTimed i = true) : isDriving i = true := by
  cases i with
  | latch => rfl
  | _ => exact h

/-- A command that drives no line passes its start checks in every state (40_engine.md R103). -/
theorem startable_of_not_driving {i : Instr} (hi : isDriving i = false) (s : State) : Startable i s :=
  ⟨fun h => absurd h (by simp [hi]), fun h => absurd (isDriving_of_isTimed h) (by simp [hi])⟩

/-- The engine turn of a ready head that drives no line starts it (40_engine.md R102). -/
theorem HeadReady.performMove_start {s : State} {i : Instr} {queued : List Word} (h : HeadReady s (encode i) queued)
    (hi : isDriving i = false) : performMove .engine s = .next
      { s with
        fifo := queued
        log := s.log ++ [.start (encode i)]
        engine := .exec (expansion s.snapshot i) s.snapshot } :=
  h.performMove_exec.trans (startable_of_not_driving hi _).exec_eq

/-- Moves that leave a command with nothing to do, and its finish: the engine is Idle, as it was before the command's start
(40_engine.md R114). -/
theorem HeadReady.performMoves_finish {s t : State} {w : Word} {queued : List Word} {ms : List Move} {snap : Snapshot}
    (h : HeadReady s w queued) (hms : performMoves ms s = .next t) (ht : t.engine = .exec [] snap) :
    performMoves (ms ++ [Move.engine]) s = .next { t with engine := s.engine } := by
  obtain ⟨hidle, -, -⟩ := h
  rw [performMoves_append, hms, thenDo_next, performMoves_cons, performMove, engineStep_finish ht, hidle]
  rfl

/-- Settles O10: the start and the finish are one engine step each. -/
theorem nopStartsAndFinishes : Obligations.NopStartsAndFinishes := by
  refine ⟨fun s => (startable_of_not_driving rfl s).exec_eq, fun s queued hready => ?_⟩
  have hstarted : performMoves [.engine] s = .next
      { s with
        fifo := queued
        log := s.log ++ [.start 0x00000000#32]
        engine := .exec [] s.snapshot } := by
    rw [performMoves_cons, HeadReady.performMove_start (i := .nop) hready rfl]
    rfl
  exact hready.performMoves_finish hstarted rfl

/-- Settles O11: the start, the capture and the finish are one engine step each. -/
theorem maskinitCapturesThePinMasks : Obligations.MaskinitCapturesThePinMasks := by
  refine ⟨fun s pin => (startable_of_not_driving rfl s).exec_eq, fun s pin queued hready => ?_⟩
  have hcaptured : performMoves [.engine, .engine] s = .next
      { s with
        fifo := queued
        maskOn := (masksOf s.gpioOut pin).1
        maskOff := (masksOf s.gpioOut pin).2
        maskValid := true
        log := s.log ++ [.start (encode (.maskinit pin)), .mask (masksOf s.gpioOut pin).1 (masksOf s.gpioOut pin).2]
        engine := .exec [] s.snapshot } := by
    rw [performMoves_cons, hready.performMove_start rfl, thenDo_next, performMoves_cons, performMove, engineStep_exec rfl]
    simp [stepMicroOp, stepMaskCapture, setEngine, record, gpioRead]
  exact hready.performMoves_finish hcaptured rfl

/-- Settles O21: the start, the iterations of the Spin and the finish. -/
theorem waitItersSpinsItsIterations : Obligations.WaitItersSpinsItsIterations := by
  refine ⟨fun s n => (startable_of_not_driving rfl s).exec_eq, fun s n queued hready => ?_⟩
  have hspun : performMoves (.engine :: List.replicate (max 1 n.toNat) .engine) s = .next
      { s with
        fifo := queued
        log := s.log ++ [.start (encode (.waitIters n))] ++ List.replicate (max 1 n.toNat) .iter
        engine := .exec [] s.snapshot } := by
    rw [performMoves_cons, hready.performMove_start rfl, thenDo_next]
    exact performMoves_spin (Nat.le_max_left 1 n.toNat) rfl
  rw [List.replicate_succ', List.replicate_succ]
  exact hready.performMoves_finish hspun rfl

/-- DELAY_TICKS after its start, its sample of TIME and some ticks: the hold counts from the sample (43_control_commands.md
R174). -/
theorem HeadReady.performMoves_delayTicks_hold {s : State} {t : BitVec 28} {queued : List Word}
    (h : HeadReady s (encode (.delayTicks t)) queued) (ticks : Nat) :
    performMoves ([Move.engine, .engine] ++ List.replicate ticks Move.tick) s = .next
      { s with
        fifo := queued
        time := s.time + BitVec.ofNat 64 ticks
        log := s.log ++ [.start (encode (.delayTicks t))]
        engine := .exec [.tickHold s.time (t.setWidth 64)] s.snapshot } := by
  rw [performMoves_append, performMoves_cons, h.performMove_start rfl, thenDo_next, performMoves_cons, performMove,
    engineStep_exec rfl]
  exact performMoves_ticks ticks _

/-- Settles O20: the ticks since the sample decide whether an engine turn finds the hold elapsed. -/
theorem delayTicksHoldsForItsTicks : Obligations.DelayTicksHoldsForItsTicks := by
  refine ⟨fun s t => (startable_of_not_driving rfl s).exec_eq, fun s t queued ticks extra hready hticks => ?_⟩
  have hhold := hready.performMoves_delayTicks_hold ticks
  have hwidth : (t.setWidth 64 : Ticks).toNat = t.toNat := BitVec.toNat_setWidth_of_le (by decide)
  refine ⟨fun hlt => ?_, fun hle => ?_⟩
  · rw [performMoves_append, hhold, thenDo_next]
    exact performMoves_engine_holds (engineStep_tickHold_before rfl rfl (hwidth ▸ hlt)) extra
  · have hended : performMoves ([Move.engine, .engine] ++ List.replicate ticks Move.tick ++ [Move.engine]) s = .next
        { s with
          fifo := queued
          time := s.time + BitVec.ofNat 64 ticks
          log := s.log ++ [.start (encode (.delayTicks t)),
            .tickHold s.time (t.setWidth 64) (s.time + BitVec.ofNat 64 ticks)]
          engine := .exec [] s.snapshot } := by
      rw [performMoves_append, hhold, thenDo_next, performMoves_cons, performMove,
        engineStep_tickHold_after rfl rfl hticks (hwidth ▸ hle)]
      simp [setEngine, record]
    rw [List.append_cons _ Move.engine]
    exact hready.performMoves_finish hended rfl

/-- Settles O26: the captured masks are GPIO_OUT with the pin's bit set and cleared, so they give LINE_PIN. -/
theorem maskCaptureFormsBothMasks : Obligations.MaskCaptureFormsBothMasks := by
  intro s pin rest snap h
  have hmasks := pinMasks_masksOf s.gpioOut pin
  have ⟨_, hhigh, hlow⟩ := hmasks
  exact ⟨_, _, _, fun k => getLsbD_masksOf_on s.gpioOut pin, fun k => getLsbD_masksOf_off s.gpioOut pin, rfl,
    engineStep_exec h, linePin_eq rfl hmasks, hhigh, hlow⟩

end Sys2Proof.Safety
end

section
/-! The errors and the timebase (60_exceptions.md): what each refused start leaves behind (R204 to R206), the counting of ticks
(R220, R221), and that no move of the block itself stops it (R201, R209). -/

namespace Sys2Proof.Machine

/-! ## What raising an error changes (R201) -/

theorem raiseError_cmd_eq (w : Word) (s : State) :
    raiseError .cmd w s = { s with errCmd := true, engine := .idle, log := s.log ++ [.error .cmd w] } := by
  simp [raiseError, setEngine, record, setSticky]

theorem raiseError_noinit_eq (w : Word) (s : State) :
    raiseError .noinit w s = { s with errNoinit := true, engine := .idle, log := s.log ++ [.error .noinit w] } := by
  simp [raiseError, setEngine, record, setSticky]

theorem raiseError_nocal_eq (w : Word) (s : State) :
    raiseError .nocal w s = { s with errNocal := true, engine := .idle, log := s.log ++ [.error .nocal w] } := by
  simp [raiseError, setEngine, record, setSticky]

/-- A legal command whose start checks fail raises that error (40_engine.md R103). -/
theorem exec_eq_raiseError {i : Instr} {s : State} {kind : ErrorKind} (h : startError s i = some kind) :
    exec i s = .next (raiseError kind (encode i) s) := by
  rw [exec_eq, h]

end Sys2Proof.Machine

namespace Sys2Proof.Safety

open Sys2Proof.Machine

/-! ## Which starts are refused -/

/-- The word is illegal if no row of the opcode map covers it (30_encoding.md R82, R84). -/
theorem exists_decode_illegal_of_not_covered {w : Word} (h : ∀ row ∈ opcodeMap, row.covers w = false) :
    ∃ why, decode w = .illegal why := by
  cases hdecode : decode w with
  | illegal why => exact ⟨why, rfl⟩
  | legal i =>
    obtain ⟨row, hrow, hcovers⟩ := (aWordIsLegalExactlyWhenOneOpcodeRowCoversIt w).2.mp ⟨i, hdecode⟩
    simp [h row hrow] at hcovers

theorem startError_of_no_masks {i : Instr} {s : State} (hi : isDriving i = true) (hvalid : s.maskValid = false) :
    startError s i = some .noinit := by
  cases i with
  | nop | maskinit _ | setScale _ | delayTicks _ | waitIters _ => cases hi
  | latch | sendBit _ | sendByte _ | sendPixel _ _ _ | sendPixelScaled _ _ _ | fill _ _ _ _ | fillScaled _ _ _ =>
    simp [startError, hvalid]

theorem startError_of_no_calibration {i : Instr} {s : State} (hi : isTimed i = true) (hvalid : s.maskValid = true)
    (hcal : s.calDiv = 0#16) : startError s i = some .nocal := by
  cases i with
  | nop | maskinit _ | setScale _ | latch | delayTicks _ | waitIters _ => cases hi
  | sendBit _ | sendByte _ | sendPixel _ _ _ | sendPixelScaled _ _ _ | fill _ _ _ _ | fillScaled _ _ _ =>
    simp [startError, hvalid, hcal]

/-- With valid masks an untimed command passes its start checks whatever CAL_DIV is (40_engine.md R103). -/
theorem startable_of_masks_untimed {i : Instr} {s : State} (hvalid : s.maskValid = true) (hi : isTimed i = false) :
    Startable i s := ⟨fun _ => hvalid, fun h => absurd h (by simp [hi])⟩

/-- The expansion of an untimed command has no calibrated hold, so it does not read CAL_DIV (40_engine.md R105). -/
theorem expansion_calDiv {i : Instr} (hi : isTimed i = false) (snap : Snapshot) (divisor : Half) :
    expansion { snap with calDiv := divisor } i = expansion snap i := by
  cases i with
  | nop | maskinit _ | setScale _ | latch | delayTicks _ | waitIters _ => rfl
  | sendBit _ | sendByte _ | sendPixel _ _ _ | sendPixelScaled _ _ _ | fill _ _ _ _ | fillScaled _ _ _ => cases hi

/-- Settles O8: the check of the masks comes before the check of CAL_DIV. -/
theorem drivingCommandsNeedMasks : Obligations.DrivingCommandsNeedMasks := by
  intro s i hi hvalid
  rw [exec_eq_raiseError (startError_of_no_masks hi hvalid), raiseError_noinit_eq]

/-- Settles O9: only a timed command's start and expansion read CAL_DIV. -/
theorem timedCommandsNeedCalibration : Obligations.TimedCommandsNeedCalibration := by
  intro s i hvalid
  refine ⟨fun hi hcal => ?_, fun hi => ⟨expansion s.snapshot i, fun divisor => ?_⟩⟩
  · rw [exec_eq_raiseError (startError_of_no_calibration hi hvalid hcal), raiseError_nocal_eq]
  · have hstart : Startable i { s with calDiv := divisor } := startable_of_masks_untimed hvalid hi
    rw [hstart.exec_eq, ← expansion_calDiv hi s.snapshot divisor]
    rfl

/-- Settles O7: the decoder refuses a word no row covers, and the engine was Idle before. -/
theorem anIllegalHeadOnlySetsErrCmd : Obligations.AnIllegalHeadOnlySetsErrCmd := by
  intro s w queued hready hrows
  have ⟨hidle, _, _⟩ := hready
  obtain ⟨why, hillegal⟩ := exists_decode_illegal_of_not_covered hrows
  rw [performMove, hready.engineStep_eq, startWord_illegal hillegal, raiseError_cmd_eq, ← hidle]

/-! ## The timebase -/

/-- Settles O31: the ticks carry TIME on by their number, and their number is less than 2^64. -/
theorem elapsedCountsTicksAcrossAWrap : Obligations.ElapsedCountsTicksAcrossAWrap :=
  fun s t ticks hticks => ⟨_, performMoves_ticks ticks s, elapsedAtLeast_add_ofNat_iff hticks s.time t⟩

/-- Settles O41: every move but a tick and a reset keeps TIME. -/
theorem onlyTicksAdvanceTime : Obligations.OnlyTicksAdvanceTime :=
  ⟨fun s => ⟨s.time + 1, BitVec.toNat_add s.time 1, rfl⟩,
    fun _ _ _ h htick hreset => (performMove_sameSchedule h htick hreset).time, rfl⟩

/-! ## What can stop a move -/

theorem guardAccess_completes_or_faults (addr bytes : Nat) (action : Nat → State) :
    Completes (guardAccess addr bytes action) ∨
    guardAccess addr bytes action = .fault .busError ∨ guardAccess addr bytes action = .fault .outsideWindow := by
  obtain ⟨off, -, -, -, -, hnext⟩ | hfault := guardAccess_cases addr bytes action
  · exact .inl ⟨action off, hnext⟩
  · exact .inr hfault

/-- A host access completes or has one of the two faults of its guard (20_memory.md R62). -/
theorem hostAccess_completes_or_faults (a : Access) (s : State) : Completes (hostAccess a s) ∨
    hostAccess a s = .fault .busError ∨ hostAccess a s = .fault .outsideWindow := by
  cases a with
  | read addr bytes =>
    rw [hostAccess]
    exact guardAccess_completes_or_faults addr bytes _
  | write addr bytes v =>
    rw [hostAccess]
    exact guardAccess_completes_or_faults addr bytes _

/-- Settles O51: the engine's step completes in a good state, and a push or a clear in the same clock cycle cannot stop it. -/
theorem onlyAHostAccessCanFault : Obligations.OnlyAHostAccessCanFault := by
  intro m s hs
  obtain ⟨-, -, hengine⟩ := hs
  cases m with
  | engine => exact .inl (engineStep_completes hengine)
  | host a => exact (hostAccess_completes_or_faults a s).imp_right fun h => ⟨a, rfl, h⟩
  | pushWithEngine w =>
    obtain ⟨t, ht⟩ := engineStep_completes hengine
    exact .inl ⟨pushCmd Config.fifoDepth w t, by rw [performMove, ht, thenDo_next]⟩
  | clearWithEngine w => exact .inl (engineStep_completes (s := clearSticky w s) hengine)
  | tick | gpioWrite _ | gpioReset | reset => exact .inl ⟨_, rfl⟩

end Sys2Proof.Safety
end

section
/-! Reset and the line after a command (70_reset_and_hazards.md R240, R241, R255), and the timing annex: how long the engine's
steps take, one after another (R260 to R262). -/

namespace Sys2Proof.Machine

/-! ## The durations of the engine's steps (R260) -/

section
variable (p : StepTimes) {s : State} {rest : List MicroOp} {snap : Snapshot}

theorem stepNs_drive {v : Word} (h : s.engine = .exec (.drive v :: rest) snap) : stepNs p s = p.driveNs := by
  simp [stepNs, engineEnabled, h]

theorem stepNs_spin {n : Nat} (h : s.engine = .exec (.spin n :: rest) snap) : stepNs p s = p.iterNs := by
  simp [stepNs, engineEnabled, h]

theorem stepNs_finish (h : s.engine = .exec [] snap) : stepNs p s = p.ctrlNs := by
  simp [stepNs, engineEnabled, h]

/-! ## Timed runs of the engine -/

theorem runEngine_succ {t : State} (h : engineStep s = .next t) (k : Nat) :
    runEngine p (k + 1) s = (runEngine p k t).map (fun r => (stepNs p s + r.1, r.2)) := by
  rw [runEngine, h]

theorem runEngine_one {t : State} (h : engineStep s = .next t) : runEngine p 1 s = some (stepNs p s, t) :=
  runEngine_succ p h 0

theorem runEngine_add {j k first second : Nat} {mid t : State} (hfirst : runEngine p j s = some (first, mid))
    (hsecond : runEngine p k mid = some (second, t)) : runEngine p (j + k) s = some (first + second, t) := by
  induction j generalizing s first with
  | zero =>
    cases hfirst
    simpa using hsecond
  | succ j ih =>
    cases hstep : engineStep s with
    | next u =>
      rw [runEngine_succ p hstep, Option.map_eq_some_iff] at hfirst
      obtain ⟨⟨after, mid'⟩, hrun, heq⟩ := hfirst
      cases heq
      rw [Nat.add_right_comm, runEngine_succ p hstep, ih hrun, Option.map_some, Nat.add_assoc]
    | fault r => simp [runEngine, hstep] at hfirst
    | refused r => simp [runEngine, hstep] at hfirst

theorem runEngine_finish (h : s.engine = .exec [] snap) : runEngine p 1 s = some (p.ctrlNs, setEngine .idle s) := by
  rw [runEngine_one p (engineStep_finish h), stepNs_finish p h]

/-- Spin(n) performed to its end takes n iterations (40_engine.md R111). -/
theorem runEngine_spin {n : Nat} (hn : 1 ≤ n) (h : s.engine = .exec (.spin n :: rest) snap) :
    runEngine p n s =
      some (n * p.iterNs, { s with log := s.log ++ List.replicate n .iter, engine := .exec rest snap }) := by
  induction n, hn using Nat.le_induction generalizing s with
  | base =>
    rw [runEngine_one p (engineStep_spin h (Nat.le_refl 1)), stepNs_spin p h, Nat.one_mul]
    rfl
  | succ n hn ih =>
    have hstep := engineStep_spin h (Nat.le_succ_of_le hn)
    rw [if_neg (by omega)] at hstep
    rw [runEngine_succ p hstep, ih rfl, stepNs_spin p h, Option.map_some, Nat.succ_mul, Nat.add_comm (n * p.iterNs)]
    simp [record, setEngine, List.replicate_succ]

/-- A phase of a bit: its drive and then its iterations (R260). -/
theorem runEngine_phase {v : Word} {n : Nat} (hn : 1 ≤ n) (h : s.engine = .exec (.drive v :: .spin n :: rest) snap) :
    runEngine p (1 + n) s = some (phaseNs p n,
      { s with
        gpioOut := v
        log := s.log ++ [.drive v] ++ List.replicate n .iter
        engine := .exec rest snap }) := by
  have hdrive := runEngine_one p (engineStep_exec h)
  rw [stepNs_drive p h] at hdrive
  exact runEngine_add p hdrive (runEngine_spin p hn rfl)

end

/-! ## The phases of an expansion -/

theorem one_le_highIterations (snap : Snapshot) (b : Bool) : 1 ≤ highIterations snap b := by
  cases b <;> exact (iterations_range _ _ _).1

theorem one_le_lowIterations (snap : Snapshot) (b : Bool) : 1 ≤ lowIterations snap b := by
  cases b <;> exact (iterations_range _ _ _).1

theorem head?_pixelU (snap : Snapshot) (r g b : Byte) : (pixelU snap r g b).head? = some (.drive snap.maskOn) := rfl

theorem head?_copies {n : Nat} (hn : n ≠ 0) {us : List MicroOp} {u : MicroOp} (h : us.head? = some u) :
    (copies n us).head? = some u := by
  obtain ⟨m, rfl⟩ := Nat.exists_eq_succ_of_ne_zero hn
  rw [copies, List.replicate_succ, List.flatten_cons, List.head?_append, h, Option.some_or]

end Sys2Proof.Machine

namespace Sys2Proof.Safety

open Sys2Proof.Machine

/-! ## The line at the finish of a command (R255) -/

theorem lineAtEnd_eq_of_sameBehindBus {s t : State} (h : SameBehindBus s t) : lineAtEnd t = lineAtEnd s := by
  rw [lineAtEnd, lineAtEnd, h.engine, h.gpioOut]

/-- No move beside a command in progress changes the level it will leave the line at, unless it writes GPIO_OUT or resets the
block. -/
theorem performMove_lineAtEnd {m : Move} {s t : State} (h : performMove m s = .next t) (hm : disturbsTheLine m = false)
    (hbusy : s.engine ≠ .idle) : lineAtEnd t = lineAtEnd s := by
  cases performMove_behindBus h with
  | turn s' t' isTurn before step after =>
    calc lineAtEnd t = lineAtEnd t' := lineAtEnd_eq_of_sameBehindBus after
      _ = lineAtEnd s' := engineStepTo_lineAtEnd step (before.engine ▸ hbusy)
      _ = lineAtEnd s := lineAtEnd_eq_of_sameBehindBus before
  | tick ht => subst ht; rfl
  | host a same => exact lineAtEnd_eq_of_sameBehindBus same
  | gpioWrite v => cases hm
  | gpioReset => cases hm
  | reset => cases hm

theorem FinishesBy.gpioOut {ms : List Move} {s t : State} (h : FinishesBy ms s t)
    (hms : ∀ m ∈ ms, disturbsTheLine m = false) : t.gpioOut = lineAtEnd s := by
  induction ms generalizing s with
  | nil =>
    obtain ⟨hidle, rfl⟩ := h
    exact (lineAtEnd_idle hidle).symm
  | cons m ms ih =>
    obtain ⟨hbusy, mid, hm, hfinish⟩ := h
    obtain ⟨hhead, htail⟩ := List.forall_mem_cons.mp hms
    exact (ih hfinish htail).trans (performMove_lineAtEnd hm hhead hbusy)

/-- A strip of pixels drives the line low last, unless it is empty. -/
theorem lastDrive_strip (snap : Snapshot) (r g b : Byte) : lastDrive (copies snap.stripLen.toNat (pixelU snap r g b)) =
    if snap.stripLen = 0#16 then none else some snap.maskOff := by
  rw [lastDrive_copies _ (lastDrive_pixelU snap r g b)]
  simp [BitVec.toNat_eq]

/-- A command that drives the line drives it low last; over an empty strip a FILL with SHOW = 0 and a FILL_SCALED drive
nothing. -/
theorem lastDrive_expansion (snap : Snapshot) {i : Instr} (hi : isDriving i = true) :
    lastDrive (expansion snap i) = some snap.maskOff ∨
      (lastDrive (expansion snap i) = none ∧ snap.stripLen = 0#16 ∧
        ((∃ r g b, i = .fill false r g b) ∨ ∃ r g b, i = .fillScaled r g b)) := by
  cases i with
  | sendBit bit => exact .inl (lastDrive_bitU snap bit)
  | sendByte byte => exact .inl (lastDrive_byteU snap byte)
  | sendPixel r g b => exact .inl (lastDrive_pixelU snap r g b)
  | sendPixelScaled r g b => exact .inl (lastDrive_pixelU snap _ _ _)
  | latch => exact .inl rfl
  | fill shown r g b =>
    cases shown with
    | true => exact .inl (lastDrive_append _ (latchU Config.tickHz snap))
    | false =>
      have hexpand : expansion snap (.fill false r g b) = copies snap.stripLen.toNat (pixelU snap r g b) := List.append_nil _
      rw [hexpand, lastDrive_strip]
      split
      next hstrip => exact .inr ⟨rfl, hstrip, .inl ⟨r, g, b, rfl⟩⟩
      next => exact .inl rfl
  | fillScaled r g b =>
    rw [expansion, scaledU, lastDrive_strip]
    split
    next hstrip => exact .inr ⟨rfl, hstrip, .inr ⟨r, g, b, rfl⟩⟩
    next => exact .inl rfl
  | nop | maskinit _ | setScale _ | delayTicks _ | waitIters _ => cases hi

/-- Settles O55: GPIO_OUT holds at the finish what the expansion drives last. -/
theorem lineDrivingCommandsEndLow : Obligations.LineDrivingCommandsEndLow := by
  intro i s t u ms hi hstart hexec hms hfinish
  cases hstart.exec_eq.symm.trans hexec
  rw [hfinish.gpioOut hms, lineAtEnd_exec rfl]
  obtain hlast | ⟨hlast, hstrip, hform⟩ := lastDrive_expansion s.snapshot hi
  · rw [hlast]
    exact .inl rfl
  · rw [hlast]
    exact .inr ⟨hstrip, hform, rfl⟩

/-! ## The timing annex -/

/-- Settles O56, by the bit's two phases one after the other. -/
theorem bitPhasesLastADriveAndTheirIterations : Obligations.BitPhasesLastADriveAndTheirIterations := by
  intro p s b rest snap h
  exact ⟨_, _, runEngine_phase p (one_le_highIterations snap b) h, rfl,
    runEngine_phase p (one_le_lowIterations snap b) rfl, rfl, rfl⟩

theorem HeadReady.stepNs_eq {s : State} {w : Word} {queued : List Word} (h : HeadReady s w queued) (p : StepTimes) :
    stepNs p s = p.ctrlNs := by
  obtain ⟨hidle, hen, hfifo⟩ := h
  simp [stepNs, engineEnabled, hidle, hen, hfifo]

/-- The start of a ready head whose checks pass takes one control step (R260). -/
theorem HeadReady.runEngine_start {s : State} {i : Instr} {queued : List Word} (h : HeadReady s (encode i) queued)
    (hi : Startable i s) (p : StepTimes) : runEngine p 1 s = some (p.ctrlNs,
      { s with
        fifo := queued
        log := s.log ++ [.start (encode i)]
        engine := .exec (expansion s.snapshot i) s.snapshot }) := by
  have hi' : Startable i { s with fifo := queued } := hi
  rw [runEngine_one p (h.performMove_exec.trans hi'.exec_eq), h.stepNs_eq]
  rfl

/-- The start of a command behind any number of NOPs, each of which takes a start and a finish before it (R261). -/
theorem runEngine_nops_start (p : StepTimes) {i : Instr} {queued : List Word} (nops : Nat) {s : State}
    (hidle : s.engine = .idle) (hen : s.ctrlEn = true)
    (hfifo : s.fifo = List.replicate nops (encode .nop) ++ encode i :: queued) (hi : Startable i s) :
    runEngine p (2 * nops + 1) s = some (nops * (2 * p.ctrlNs) + p.ctrlNs,
      { s with
        fifo := queued
        log := s.log ++ List.replicate nops (.start (encode .nop)) ++ [.start (encode i)]
        engine := .exec (expansion s.snapshot i) s.snapshot }) := by
  induction nops generalizing s with
  | zero => simpa using HeadReady.runEngine_start ⟨hidle, hen, hfifo⟩ hi p
  | succ nops ih =>
    have hnop := runEngine_add p
      (HeadReady.runEngine_start ⟨hidle, hen, hfifo⟩ (startable_of_not_driving (i := .nop) rfl s) p) (runEngine_finish p rfl)
    have hrun := runEngine_add p hnop (ih rfl hen rfl hi)
    have hsteps : 2 * (nops + 1) + 1 = 1 + 1 + (2 * nops + 1) := by omega
    have hns : (nops + 1) * (2 * p.ctrlNs) + p.ctrlNs = p.ctrlNs + p.ctrlNs + (nops * (2 * p.ctrlNs) + p.ctrlNs) := by
      rw [Nat.succ_mul]
      omega
    rw [hsteps, hns, hrun]
    simp [setEngine, State.snapshot, List.replicate_succ]

/-- Every command that sends bits begins with the high drive of its first bit, but over an empty strip. -/
theorem head?_expansion {snap : Snapshot} {i : Instr} (hi : isTimed i = true) (hstrip : snap.stripLen ≠ 0#16) :
    (expansion snap i).head? = some (.drive snap.maskOn) := by
  have hlen : snap.stripLen.toNat ≠ 0 := by simpa [BitVec.toNat_eq] using hstrip
  cases i with
  | sendBit bit => rfl
  | sendByte byte => rfl
  | sendPixel r g b => rfl
  | sendPixelScaled r g b => rfl
  | fill shown r g b => simp [expansion, List.head?_append, head?_copies hlen (head?_pixelU snap r g b)]
  | fillScaled r g b => exact head?_copies hlen (head?_pixelU snap _ _ _)
  | nop | maskinit _ | setScale _ | latch | delayTicks _ | waitIters _ => cases hi

/-- Settles O57: the last phase, the finish, the NOPs and the next start, one after another. -/
theorem aCommandBoundaryLengthensTheLowPhase : Obligations.ACommandBoundaryLengthensTheLowPhase := by
  intro p s iters nops snap i queued he hiters hen hfifo hi hvalid hcal hstrip
  obtain ⟨rest, hrest⟩ := List.head?_eq_some_iff.mp (head?_expansion (snap := s.snapshot) hi hstrip)
  have hlast := runEngine_add p (runEngine_phase p hiters he) (runEngine_finish p rfl)
  have hrun := runEngine_add p hlast
    (runEngine_nops_start p nops rfl hen hfifo (startable_of_masks_calDiv hvalid hcal i))
  have hns : phaseNs p iters + p.ctrlNs + (nops * (2 * p.ctrlNs) + p.ctrlNs) =
      p.driveNs + iters * p.iterNs + 2 * p.ctrlNs + nops * (2 * p.ctrlNs) := by
    rw [phaseNs]
    omega
  rw [hns] at hrun
  exact ⟨_, rest, hrun, rfl, congrArg (Engine.exec · s.snapshot) hrest⟩

/-- Settles O58: the count is the floor of what is left of the request after the drive. -/
theorem aCalibratedPhaseFallsShortByLessThanOneIteration : Obligations.ACalibratedPhaseFallsShortByLessThanOneIteration := by
  intro p requested correction calDiv hcal hiter hdrive hlong
  have hpos : 0 < calDiv.toNat := Nat.pos_of_ne_zero (by simpa [BitVec.toNat_eq] using hcal)
  have hone : 1 ≤ (requested.toNat - correction.toNat) / calDiv.toNat := (Nat.one_le_div_iff hpos).mpr (by omega)
  have hfloor := Nat.div_mul_le_self (requested.toNat - correction.toNat) calDiv.toNat
  have hnext := Nat.lt_div_mul_add hpos (a := requested.toNat - correction.toNat)
  rw [iterations_eq, Nat.max_eq_right hone, phaseNs, calibratedPhaseNs, hiter, hdrive]
  omega

/-! ## Reset -/

/-- Settles O48, by the fields of the reset state. -/
theorem resetGivesEveryElementItsValue : Obligations.ResetGivesEveryElementItsValue := by
  refine fun s => ⟨⟨blockReset s, rfl, ?_⟩, rfl, rfl⟩
  simp [blockReset, State.reset]

end Sys2Proof.Safety
end

section
/-! The spec's command words (95_test_vectors.md 2.3 to 2.6). -/

namespace Sys2Proof

/-- Settles O1: a legal word is the one the encoder writes for its command, and the decoder runs on the illegal ones. -/
theorem specWordsDecodeAsTheSpecSays : Obligations.SpecWordsDecodeAsTheSpecSays := by
  simp only [Obligations.SpecWordsDecodeAsTheSpecSays, decode_legal_iff_encode]
  decide

end Sys2Proof
end
